-- ==== Sys2Proof/Word.lean ====
section
/-! DEFINITION. The word types of LC3VM-SPSC and the names of its two instances and of its agents' turns. -/

namespace Sys2Proof

/-- A cell, a register, the pc, an instruction and a ring element are all 16 bits (R9, `XLEN` and `TW`). -/
abbrev Word := BitVec 16

/-- One byte of the output stream or of a program image file (R39, R265). -/
abbrev Byte := BitVec 8

/-- The number of a general register, 0 to 7 (R30). -/
abbrev RegId := Fin 8

/-- The two virtual-machine instances, `VM[P]` and `VM[C]` (R15). The names are labels of the host's; no
rule treats one differently from the other. -/
inductive VmId where
  | P
  | C
  deriving DecidableEq, Repr, Inhabited

/-- The instance that is not `v`. -/
def VmId.other : VmId → VmId
  | .P => .C
  | .C => .P

/-- What may happen next in the machine: a step of one of the four agents of R17 (an instance, `SyncHead`,
`SyncTail`), or the host's Abort, which may fall between any two steps (R234, R236). -/
inductive Turn where
  | vm (v : VmId)
  | syncHead
  | syncTail
  | abort
  deriving DecidableEq, Repr, Inhabited

end Sys2Proof
end

