-- ==== Sys2Proof/Config.lean ====
section
/-! DEFINITION. The parameters the model takes (R9, R10), and the one free value of the model. -/

namespace Sys2Proof

/-- The values of the parameter `UNRECOGNIZED` (R9, R42): what a word does that no instruction claims. The spec
names these two. DESIGN CHOICE, log entry 10: the source's "logging it" is no third value, since no rule says
what would be logged, and "treating it as fatal" is `refuse`. -/
inductive Unrecognized where
  /-- The word is counted and has no other effect: the default (R212, R220, D3). -/
  | nop
  /-- The word is refused when it is executed: the cautious alternative (U1, U2, R220). -/
  | refuse
  deriving DecidableEq, Repr

/-- The parameters of R9 that are left open or kept as a choice. No step changes them (R10). `XLEN`, `TW`,
`NREG` and `CELLS` are fixed by the types; the images and the start values are arguments of `State.boot`. -/
structure Config where
  /-- `K`: the capacity is `N = 2^K`, so that no other capacity can be written (R9, R21, U15). -/
  logN : Nat
  /-- `BUDGET[P]` (R9, R155, D29). -/
  budgetP : Nat
  /-- `BUDGET[C]`. -/
  budgetC : Nat
  /-- `LD_SETS_CC`, by default true (R181, D2). -/
  ldSetsCC : Bool
  /-- `UNRECOGNIZED`, by default `nop` (R212, R220, D3). -/
  unrecognized : Unrecognized
  /-- `TRAP_SAVES_R7`, by default false (R201, D5). -/
  trapSavesR7 : Bool
  /-- `CACHE_LINE` in bytes; no step reads it (R27, D15, U22). -/
  cacheLine : Nat
  deriving DecidableEq, Repr

/-- The capacity `N` of the ring, in slots (R9, R21). -/
def Config.capacity (c : Config) : Nat := 2 ^ c.logN

/-- `BUDGET[v]`, the most instructions that instance `v` may execute (R155). -/
def Config.budget (c : Config) : VmId → Nat
  | .P => c.budgetP
  | .C => c.budgetC

/-- The legal configurations: `K >= 1`, so that at least one slot is usable (R9, D12). -/
def Config.wf (c : Config) : Bool := decide (1 ≤ c.logN)

/-- FREE VALUE (log entry 7). Which turn comes next is nobody's to fix: the spec admits every interleaving
(R18, U12, U18) and an Abort at any moment (R236). Where State holds no schedule the next turn is this
constant at State's counter of turns; it has no body, so no proof can know a value of it. -/
opaque Config.freeTurn : Nat → Turn

end Sys2Proof
end

