-- ==== Sys2Proof/Syntax.lean ====
section
/-! DEFINITION. The instructions: one constructor per row of spec/opcode_table.json (R104). -/

namespace Sys2Proof

/-- An instruction with its decoded fields (R92 to R94). Bits that no field covers are not examined (R97), so
they are not kept. -/
inductive Instr where
  /-- BR: mask `n z p = ir[11:9]` and `off9` (R191). -/
  | br (mask : BitVec 3) (off9 : BitVec 9)
  /-- ADD, register mode (R171). -/
  | addReg (dr sr1 sr2 : RegId)
  /-- ADD, immediate mode (R172). -/
  | addImm (dr sr1 : RegId) (imm5 : BitVec 5)
  /-- AND, register mode (R173). -/
  | andReg (dr sr1 sr2 : RegId)
  /-- AND, immediate mode (R174). -/
  | andImm (dr sr1 : RegId) (imm5 : BitVec 5)
  /-- NOT (R175). -/
  | not (dr sr : RegId)
  /-- LD (R181). -/
  | ld (dr : RegId) (off9 : BitVec 9)
  /-- ST (R182). -/
  | st (sr : RegId) (off9 : BitVec 9)
  /-- JSR (R192). -/
  | jsr (off11 : BitVec 11)
  /-- JMP (R193); `JMP R7` is the notation's RET (R112). -/
  | jmp (baseR : RegId)
  /-- TRAP x21, OUT (R204). -/
  | trapOut
  /-- TRAP x25, HALT (R205). -/
  | trapHalt
  /-- TRAP x30, SEND (R206). -/
  | trapSend
  /-- TRAP x31, RECV (R207). -/
  | trapRecv
  /-- TRAP with any of the other 252 vectors (R101, R212). -/
  | trapOther (vect8 : BitVec 8)
  /-- Opcode 0110, unrecognised (R221). -/
  | unrec6
  /-- Opcode 0111, unrecognised (R222). -/
  | unrec7
  /-- Opcode 1000, unrecognised (R223). -/
  | unrec8
  /-- Opcode 1010, unrecognised (R224). -/
  | unrecA
  /-- Opcode 1011, unrecognised (R225). -/
  | unrecB
  /-- Opcode 1101, unrecognised (R226). -/
  | unrecD
  /-- Opcode 1110, unrecognised (R227). -/
  | unrecE
  deriving DecidableEq, Repr

end Sys2Proof
end

