-- ==== Sys2Proof/WellFormed.lean ====
section
/-! DEFINITION. Which terms of Instr stand for an instruction. Register numbers and field widths are right by
their types; the one check is that an unrecognised trap vector is not one of the four recognised ones. -/

namespace Sys2Proof

/-- The four recognised trap vectors: OUT, HALT, SEND, RECV (R202). -/
def recognisedVectors : List (BitVec 8) := [0x21#8, 0x25#8, 0x30#8, 0x31#8]

/-- Well-formed: a TRAP with a recognised vector is written as its own constructor (R99, R101). -/
def Instr.wf : Instr → Bool
  | .br _ _ => true
  | .addReg _ _ _ => true
  | .addImm _ _ _ => true
  | .andReg _ _ _ => true
  | .andImm _ _ _ => true
  | .not _ _ => true
  | .ld _ _ => true
  | .st _ _ => true
  | .jsr _ => true
  | .jmp _ => true
  | .trapOut => true
  | .trapHalt => true
  | .trapSend => true
  | .trapRecv => true
  | .trapOther vect8 => !recognisedVectors.contains vect8
  | .unrec6 => true
  | .unrec7 => true
  | .unrec8 => true
  | .unrecA => true
  | .unrecB => true
  | .unrecD => true
  | .unrecE => true

end Sys2Proof
end

