-- ==== Sys2Proof/Decode.lean ====
section
/-! DEFINITION. Decoding of every 16-bit word (R90 to R101), the encoder beside it, and the opcode table
(R104) as data. -/

namespace Sys2Proof

/-! ### Fields -/

/-- The opcode, `ir[15:12]` (R91). -/
def opcodeOf (w : Word) : BitVec 4 := w.extractLsb' 12 4

/-- The register number held in the three bits from bit `lo` up (R94). -/
def regField (w : Word) (lo : Nat) : RegId := (w.extractLsb' lo 3).toFin

/-- `DR` and ST's `SR`, `ir[11:9]` (R94). -/
def fieldDR (w : Word) : RegId := regField w 9

/-- `SR1`, NOT's `SR` and `BaseR`, `ir[8:6]` (R94). -/
def fieldSR1 (w : Word) : RegId := regField w 6

/-- `SR2`, `ir[2:0]` (R94). -/
def fieldSR2 (w : Word) : RegId := regField w 0

/-- The immediate-mode bit, `ir[5]` (R94). -/
def fieldMode (w : Word) : Bool := w.getLsbD 5

/-- `imm5`, `ir[4:0]` (R94). -/
def fieldImm5 (w : Word) : BitVec 5 := w.extractLsb' 0 5

/-- The BR mask `n z p`, `ir[11:9]` (R94, R96). -/
def fieldMask (w : Word) : BitVec 3 := w.extractLsb' 9 3

/-- `off9`, `ir[8:0]` (R94). -/
def fieldOff9 (w : Word) : BitVec 9 := w.extractLsb' 0 9

/-- `off11`, `ir[10:0]` (R94). -/
def fieldOff11 (w : Word) : BitVec 11 := w.extractLsb' 0 11

/-- `vect8`, `ir[7:0]` (R94). -/
def fieldVect8 (w : Word) : BitVec 8 := w.extractLsb' 0 8

/-! ### Decoding -/

/-- Which service a trap vector selects (R200); the other 252 vectors are unrecognised (R101). -/
def decodeTrap (vect8 : BitVec 8) : Instr :=
  if vect8 = 0x21#8 then .trapOut
  else if vect8 = 0x25#8 then .trapHalt
  else if vect8 = 0x30#8 then .trapSend
  else if vect8 = 0x31#8 then .trapRecv
  else .trapOther vect8

/-- The instruction of a word, for an opcode already taken from it (R92, R153). All sixteen opcodes are
listed; seven of them are unrecognised (R100). -/
def decodeOp (op : BitVec 4) (w : Word) : Instr :=
  if op = 0x0#4 then .br (fieldMask w) (fieldOff9 w)
  else if op = 0x1#4 then
    if fieldMode w then .addImm (fieldDR w) (fieldSR1 w) (fieldImm5 w)
    else .addReg (fieldDR w) (fieldSR1 w) (fieldSR2 w)
  else if op = 0x2#4 then .ld (fieldDR w) (fieldOff9 w)
  else if op = 0x3#4 then .st (fieldDR w) (fieldOff9 w)
  else if op = 0x4#4 then .jsr (fieldOff11 w)
  else if op = 0x5#4 then
    if fieldMode w then .andImm (fieldDR w) (fieldSR1 w) (fieldImm5 w)
    else .andReg (fieldDR w) (fieldSR1 w) (fieldSR2 w)
  else if op = 0x6#4 then .unrec6
  else if op = 0x7#4 then .unrec7
  else if op = 0x8#4 then .unrec8
  else if op = 0x9#4 then .not (fieldDR w) (fieldSR1 w)
  else if op = 0xA#4 then .unrecA
  else if op = 0xB#4 then .unrecB
  else if op = 0xC#4 then .jmp (fieldSR1 w)
  else if op = 0xD#4 then .unrecD
  else if op = 0xE#4 then .unrecE
  else decodeTrap (fieldVect8 w)

/-- Decoding, total: every 16-bit word is exactly one instruction (R99, R152, R153). No word is refused, since
the machine calls none illegal. -/
def decode (w : Word) : Instr := decodeOp (opcodeOf w) w

/-- Why a sequence of bytes holds no instruction. -/
inductive DecodeError where
  /-- Fewer than two bytes are left: an instruction is one 16-bit word (R90). Raised by `decodeBytes` only. -/
  | truncated
  deriving DecidableEq, Repr

/-- Decoding from a byte stream in the order of a program image, the high byte first (R63, R265): the
instruction and the bytes after it. -/
def decodeBytes : List Byte → Except DecodeError (Instr × List Byte)
  | hi :: lo :: rest => .ok (decode (hi ++ lo), rest)
  | [_] => .error .truncated
  | [] => .error .truncated

/-- The instruction the decoder reads from an instruction whose bits are `w`, numbered as
spec/opcode_table.json numbers them. Every instruction is one word of 16 bits, laid out in one cell (R90), so
a row of more bits, or a number that does not fit one word, is none. -/
def decodeTableWord (nbits w : Nat) : Option Instr :=
  if nbits ≤ 16 ∧ w < 2 ^ 16 then some (decode (BitVec.ofNat 16 w)) else none

/-! ### Encoding -/

/-- The three bits of a register number (R94). -/
def regBits (r : RegId) : BitVec 3 := BitVec.ofFin r

/-- The word of an instruction, by the formats of R93. Bits that no field covers take the canonical values of
R97: `ir[4:3] = 00` in register mode, `ir[5:0] = 111111` in NOT, zeros in JMP and TRAP, `ir[11] = 1` in JSR,
and (the spec gives none) zeros in an unrecognised opcode. -/
def encode : Instr → Word
  | .br mask off9 => 0x0#4 ++ mask ++ off9
  | .addReg dr sr1 sr2 => 0x1#4 ++ regBits dr ++ regBits sr1 ++ 0b000#3 ++ regBits sr2
  | .addImm dr sr1 imm5 => 0x1#4 ++ regBits dr ++ regBits sr1 ++ 0b1#1 ++ imm5
  | .andReg dr sr1 sr2 => 0x5#4 ++ regBits dr ++ regBits sr1 ++ 0b000#3 ++ regBits sr2
  | .andImm dr sr1 imm5 => 0x5#4 ++ regBits dr ++ regBits sr1 ++ 0b1#1 ++ imm5
  | .not dr sr => 0x9#4 ++ regBits dr ++ regBits sr ++ 0b111111#6
  | .ld dr off9 => 0x2#4 ++ regBits dr ++ off9
  | .st sr off9 => 0x3#4 ++ regBits sr ++ off9
  | .jsr off11 => 0x4#4 ++ 0b1#1 ++ off11
  | .jmp baseR => 0xC#4 ++ 0b000#3 ++ regBits baseR ++ 0b000000#6
  | .trapOut => 0xF#4 ++ 0x0#4 ++ 0x21#8
  | .trapHalt => 0xF#4 ++ 0x0#4 ++ 0x25#8
  | .trapSend => 0xF#4 ++ 0x0#4 ++ 0x30#8
  | .trapRecv => 0xF#4 ++ 0x0#4 ++ 0x31#8
  | .trapOther vect8 => 0xF#4 ++ 0x0#4 ++ vect8
  | .unrec6 => 0x6#4 ++ 0x000#12
  | .unrec7 => 0x7#4 ++ 0x000#12
  | .unrec8 => 0x8#4 ++ 0x000#12
  | .unrecA => 0xA#4 ++ 0x000#12
  | .unrecB => 0xB#4 ++ 0x000#12
  | .unrecD => 0xD#4 ++ 0x000#12
  | .unrecE => 0xE#4 ++ 0x000#12

/-- The bits of an instruction's word that the hardware decodes: 1 where R93's pattern has a fixed bit or a
field letter, 0 where it has `x`. -/
def decodedMask : Instr → Word
  | .br _ _ => 0xFFFF#16
  | .addReg _ _ _ => 0xFFE7#16
  | .addImm _ _ _ => 0xFFFF#16
  | .andReg _ _ _ => 0xFFE7#16
  | .andImm _ _ _ => 0xFFFF#16
  | .not _ _ => 0xFFC0#16
  | .ld _ _ => 0xFFFF#16
  | .st _ _ => 0xFFFF#16
  | .jsr _ => 0xF7FF#16
  | .jmp _ => 0xF1C0#16
  | .trapOut => 0xF0FF#16
  | .trapHalt => 0xF0FF#16
  | .trapSend => 0xF0FF#16
  | .trapRecv => 0xF0FF#16
  | .trapOther _ => 0xF0FF#16
  | .unrec6 => 0xF000#16
  | .unrec7 => 0xF000#16
  | .unrec8 => 0xF000#16
  | .unrecA => 0xF000#16
  | .unrecB => 0xF000#16
  | .unrecD => 0xF000#16
  | .unrecE => 0xF000#16

/-! ### The opcode table -/

/-- The rows of spec/opcode_table.json, by the instruction form each stands for (R104). -/
inductive Row where
  | br | addReg | addImm | andReg | andImm | not | ld | st | jsr | jmp
  | trapOut | trapHalt | trapSend | trapRecv | trapOther
  | unrec6 | unrec7 | unrec8 | unrecA | unrecB | unrecD | unrecE
  deriving DecidableEq, Repr

/-- The row of an instruction. -/
def Instr.row : Instr → Row
  | .br _ _ => .br
  | .addReg _ _ _ => .addReg
  | .addImm _ _ _ => .addImm
  | .andReg _ _ _ => .andReg
  | .andImm _ _ _ => .andImm
  | .not _ _ => .not
  | .ld _ _ => .ld
  | .st _ _ => .st
  | .jsr _ => .jsr
  | .jmp _ => .jmp
  | .trapOut => .trapOut
  | .trapHalt => .trapHalt
  | .trapSend => .trapSend
  | .trapRecv => .trapRecv
  | .trapOther _ => .trapOther
  | .unrec6 => .unrec6
  | .unrec7 => .unrec7
  | .unrec8 => .unrec8
  | .unrecA => .unrecA
  | .unrecB => .unrecB
  | .unrecD => .unrecD
  | .unrecE => .unrecE

/-- One row's `match` and `mask` (R104). -/
structure RowPattern where
  row : Row
  pattern : Word
  mask : Word
  deriving DecidableEq, Repr

/-- The table's rows, in an order in which a row of a longer mask stands before a row whose words it shares,
so that the first match is the row that R104 lets win. -/
def opcodeTable : List RowPattern :=
  [⟨.br, 0x0000#16, 0xF000#16⟩, ⟨.addReg, 0x1000#16, 0xF020#16⟩, ⟨.addImm, 0x1020#16, 0xF020#16⟩,
   ⟨.andReg, 0x5000#16, 0xF020#16⟩, ⟨.andImm, 0x5020#16, 0xF020#16⟩, ⟨.not, 0x9000#16, 0xF000#16⟩,
   ⟨.ld, 0x2000#16, 0xF000#16⟩, ⟨.st, 0x3000#16, 0xF000#16⟩, ⟨.jsr, 0x4000#16, 0xF000#16⟩,
   ⟨.jmp, 0xC000#16, 0xF000#16⟩, ⟨.trapOut, 0xF021#16, 0xF0FF#16⟩, ⟨.trapHalt, 0xF025#16, 0xF0FF#16⟩]
  ++ [⟨.trapSend, 0xF030#16, 0xF0FF#16⟩, ⟨.trapRecv, 0xF031#16, 0xF0FF#16⟩, ⟨.trapOther, 0xF000#16, 0xF000#16⟩,
   ⟨.unrec6, 0x6000#16, 0xF000#16⟩, ⟨.unrec7, 0x7000#16, 0xF000#16⟩, ⟨.unrec8, 0x8000#16, 0xF000#16⟩,
   ⟨.unrecA, 0xA000#16, 0xF000#16⟩, ⟨.unrecB, 0xB000#16, 0xF000#16⟩, ⟨.unrecD, 0xD000#16, 0xF000#16⟩,
   ⟨.unrecE, 0xE000#16, 0xF000#16⟩]

/-- A word matches a row when `w & mask = match` (R104). -/
def RowPattern.hit (p : RowPattern) (w : Word) : Bool := w &&& p.mask == p.pattern

/-- How many bits of the row's mask are set (R104 lets the row with more of them win). -/
def RowPattern.maskBits (p : RowPattern) : Nat := ((List.range 16).filter (p.mask.getLsbD ·)).length

end Sys2Proof
end

