-- ==== Sys2Proof/Machine/State.lean ====
section
/-! DEFINITION. The state of LC3VM-SPSC as plain data: the shared ring buffer, the two instances, the output
stream and the model's own bookkeeping; the reasons a step can stop; the state after reset. -/

namespace Sys2Proof.Machine

/-- The condition register `COND`: exactly one of negative, zero, positive (R32). -/
inductive Cond where
  | n
  | z
  | p
  deriving DecidableEq, Repr

/-- The spin phase `pend`: inside an unfinished SEND, inside an unfinished RECV, or neither (R37). -/
inductive Pend where
  | none
  | send
  | recv
  deriving DecidableEq, Repr

/-- The two operations of the ring buffer (R120). -/
inductive QueueOp where
  | push
  | pop
  deriving DecidableEq, Repr

/-- One instance's memory: 65536 cells of 16 bits (R34, R60), held as pairs of an address and a cell's word,
addresses strictly rising, no pair equal to what an unlisted cell reads as (`Memory.wf` in Machine/Ops.lean).
The addressable unit is the 16-bit cell; the machine has no byte address (R60, R63; log entry 1). -/
abbrev Memory := List (Nat × Word)

/-- The ring buffer `Q` (R20 to R26). The capacity `N` is a parameter, not state (R21). -/
structure Ring where
  /-- The `N` slots; a slot that nothing has written has no value (R22). -/
  buffer : List (Option Word)
  /-- The next slot the producer will write (R23). -/
  head : Nat
  /-- The next slot the consumer will read (R24). -/
  tail : Nat
  /-- `tail_p`, the producer-side view of `tail` (R26). -/
  tailP : Nat
  /-- `head_c`, the consumer-side view of `head` (R26). -/
  headC : Nat
  deriving DecidableEq, Repr

/-- One virtual-machine instance (R29). Its reference to `Q` is not a field: there is one `Q` (R38). -/
structure Vm where
  /-- `x[0..7]` (R30). -/
  regs : Vector Word 8
  /-- The program counter (R31). -/
  pc : Word
  /-- The condition register (R32). -/
  cond : Cond
  /-- The private memory (R34). -/
  mem : Memory
  /-- Starts true, cleared by HALT only (R35). -/
  running : Bool
  /-- `instructionCount` (R36, R154); the four counters do not wrap (D19). -/
  icount : Nat
  /-- Successful SENDs (R36). -/
  messagesSent : Nat
  /-- Successful RECVs (R36). -/
  messagesReceived : Nat
  /-- Failed `pop`s (R36). -/
  receiveSpinIterations : Nat
  /-- The spin phase (R37). -/
  pend : Pend
  deriving DecidableEq, Repr

/-- The whole machine. `cfg` holds the parameters (R9, R10): no step changes them. `producer`, `consumer`,
`active`, `sched` and `tick` are the model's own (log entries 7, 12, 16). -/
structure State where
  /-- The parameters the run is made with (R9). -/
  cfg : Config
  /-- The shared ring buffer (R20). -/
  q : Ring
  /-- The instance that performs `push` in this run, once one has (R127, D25). -/
  producer : Option VmId
  /-- The instance that performs `pop` in this run, once one has (R127, D25). -/
  consumer : Option VmId
  /-- `VM[P]`. -/
  vmP : Vm
  /-- `VM[C]`. -/
  vmC : Vm
  /-- The output stream, oldest byte first (R39). -/
  out : List Byte
  /-- The instance whose turn is being executed. -/
  active : VmId
  /-- The turns chosen from outside, the next one first; where it is empty a free value chooses. -/
  sched : List Turn
  /-- How many turns have been taken: the index of the free value. -/
  tick : Nat
  deriving DecidableEq, Repr

/-- Why the machine stops. None is raised by the hardware (R230); each is a model-level outcome, after which
nothing has meaning. -/
inductive Fault where
  /-- A second instance performs `push`, or a second performs `pop` (R127, R233, D22): undefined behaviour in
  the source. Raised by an attempt of SEND or RECV. Safe: the hardware goes on, and no claim can be proved
  about it. -/
  | spscViolation (v : VmId) (op : QueueOp)
  /-- The host has no well-formed image for instance `v` (R233, R238). Raised by `State.boot`, before any step.
  Safe: no instance takes a step. -/
  | imageLoadFailure (v : VmId)
  /-- The host's Abort (R233, R236). Raised by a turn of the host's. Safe: the run ends with no state. -/
  | abort
  /-- A `pop` finds a slot without a value. Raised by an attempt of RECV, in states that no run reaches (R133);
  log entry 14. Safe: it stops where the spec gives no value. -/
  | unwrittenSlot
  deriving DecidableEq, Repr

/-- Why an instruction, or a configuration, has no meaning. -/
inductive Refusal where
  /-- An instruction whose meaning is not written yet. Raised by an arm of `exec` only; no arm raises it now.
  Safe. -/
  | notModelled (mnemonic : String)
  /-- The host asks for a ring of one slot (`K = 0`), which the hardware cannot be built with (R9, D12, U15).
  Raised by `State.boot`, before any step. Safe. -/
  | badCapacity
  /-- A word of an unrecognised opcode or vector, where the parameter `UNRECOGNIZED` is `refuse` (U1, U2, R220; log
  entry 10). Raised by `State.unrecognised`. Safe: the hardware goes on, and no claim can be proved about it. -/
  | unrecognisedWord
  deriving DecidableEq, Repr

/-- The parameters at reset: `K = 2` (so `N = 4`), budgets of 1000, a cache line of 64 bytes (DESIGN CHOICE,
log entry 6: the spec leaves the three open), `LD_SETS_CC = true` (D2), `UNRECOGNIZED = nop` (D3) and
`TRAP_SAVES_R7 = false` (D5). -/
def resetConfig : Config :=
  { logN := 2, budgetP := 1000, budgetC := 1000, ldSetsCC := true, unrecognized := .nop, trapSavesR7 := false,
    cacheLine := 64 }

/-- `Q` as constructed with `n` slots: all four indices 0, no slot written (R44, R143). -/
def Ring.reset (n : Nat) : Ring :=
  { buffer := List.replicate n none, head := 0, tail := 0, tailP := 0, headC := 0 }

/-- An instance right after reset (R44). The registers, the pc, `COND` and the memory are the values that log
entries 2 to 5 name (DESIGN CHOICE); the rest is the spec's. -/
def Vm.reset : Vm :=
  { regs := Vector.replicate 8 0x0000#16, pc := 0x0000#16, cond := .z, mem := [], running := true,
    icount := 0, messagesSent := 0, messagesReceived := 0, receiveSpinIterations := 0, pend := .none }

/-- The machine right after reset: as the host has constructed it, before any agent steps (R44, R260), with the
empty image in both instances (log entry 5). -/
def State.reset : State :=
  { cfg := resetConfig, q := Ring.reset resetConfig.capacity, producer := none, consumer := none,
    vmP := Vm.reset, vmC := Vm.reset, out := [], active := .P, sched := [], tick := 0 }

end Sys2Proof.Machine
end

