-- ==== Sys2Proof/Machine/Flags.lean ====
section
/-! DEFINITION. The condition register: `setcc` (R33) and the test of BR's mask (R96, R191). There is no other
flag (R170, R176). -/

namespace Sys2Proof.Machine

/-- The state of `COND` for a result: Z if it is 0, N if its bit 15 is set, P otherwise (R33). -/
def condOf (v : Word) : Cond :=
  if v = 0#16 then .z else if v.getLsbD 15 then .n else .p

/-- `COND` as the one-hot vector that BR's mask is tested against (R32, R96). -/
def Cond.oneHot : Cond → BitVec 3
  | .n => 0b100#3
  | .z => 0b010#3
  | .p => 0b001#3

/-- Whether BR is taken: a mask of none or of all three bits always is, any other if a masked bit matches
(R191). -/
def branchTaken (mask : BitVec 3) (c : Cond) : Bool :=
  mask == 0b000#3 || mask == 0b111#3 || mask &&& c.oneHot != 0#3

end Sys2Proof.Machine
end

