-- ==== Sys2Proof/Machine/Operands.lean ====
section
/-! DEFINITION. Operand forms: sign extension of the immediates (R13, R95) and the addresses made of the pc. -/

namespace Sys2Proof.Machine

/-- `sext_k`: the field's top bit replicated into all higher bits of the 16-bit word (R13). -/
def sext {k : Nat} (f : BitVec k) : Word := f.signExtend 16

/-- `zext_k`: the field padded with zeros (R13); used for the OUT byte only. -/
def zext {k : Nat} (f : BitVec k) : Word := f.setWidth 16

/-- The successor of an address, modulo 2^16 (R31, R90, R151). -/
def nextAddr (pc : Word) : Word := pc + 1#16

/-- The immediate operand of ADD and AND (R95, R172, R174). -/
def immOperand (imm5 : BitVec 5) : Word := sext imm5

/-- The address `pc + sext_9(off9)`, modulo 2^16, with `pc` the address of the instruction plus one: the
effective address of LD and ST (R180) and BR's target (R191). -/
def pcRel9 (pc : Word) (off9 : BitVec 9) : Word := pc + sext off9

/-- The address `pc + sext_11(off11)`, modulo 2^16: JSR's target (R192). -/
def pcRel11 (pc : Word) (off11 : BitVec 11) : Word := pc + sext off11

/-- The low byte of a register, bits 7:0: what OUT emits (R63, R204). -/
def lowByte (v : Word) : Byte := v.extractLsb' 0 8

end Sys2Proof.Machine
end

