-- ==== Sys2Proof/Machine/Ops.lean ====
section
/-! DEFINITION. The named operations that the meanings share: memory, registers, the ring buffer's `push` and
`pop`, the propagation of its indices, and one attempt of SEND and of RECV. The hardware takes no exception and
returns from none (R230, R235, R237); TRAP's entry, which is no transfer of control, is `State.trapEntry`. -/

namespace Sys2Proof.Machine

/-! ### Memory -/

/-- What an unlisted cell reads as (log entry 2: `MEM0` at reset is zero everywhere). -/
def unlistedCell : Word := 0x0000#16

/-- The content of the cell at address `a`. -/
def Memory.lookup : Memory → Nat → Word
  | [], _ => unlistedCell
  | (b, w) :: m, a => if a = b then w else Memory.lookup m a

/-- The memory in which the cell at address `a` holds `v`, in canonical form again. -/
def Memory.insert : Memory → Nat → Word → Memory
  | [], a, v => if v = unlistedCell then [] else [(a, v)]
  | (b, w) :: m, a, v =>
    if a < b then (if v = unlistedCell then (b, w) :: m else (a, v) :: (b, w) :: m)
    else if a = b then (if v = unlistedCell then m else (a, v) :: m)
    else (b, w) :: Memory.insert m a v

/-- `MemRead(a, 1)` (R14): every 16-bit value is the address of a cell (R68, R69). -/
def Memory.read (m : Memory) (a : Word) : Word := m.lookup a.toNat

/-- `MemWrite(a, 1, v)` (R14). -/
def Memory.write (m : Memory) (a v : Word) : Memory := m.insert a.toNat v

/-- Canonical from address `lo` up: addresses strictly rising and below 65536, no entry that an unlisted cell
would read as. -/
def Memory.wfFrom (lo : Nat) : Memory → Bool
  | [] => true
  | (a, v) :: m => decide (lo ≤ a) && decide (a < 65536) && decide (v ≠ unlistedCell) && Memory.wfFrom (a + 1) m

/-- The canonical form of a memory: equal memories are equal lists. -/
def Memory.wf (m : Memory) : Bool := Memory.wfFrom 0 m

/-- The memory with the words of a list stored from address `a` up, one cell each. -/
def Memory.writeAll (m : Memory) (a : Word) : List Word → Memory
  | [] => m
  | w :: ws => Memory.writeAll (m.write a w) (nextAddr a) ws

/-! ### One instance -/

def Vm.reg (x : Vm) (r : RegId) : Word := x.regs[r]

def Vm.setReg (x : Vm) (r : RegId) (v : Word) : Vm := { x with regs := x.regs.set r v }

def Vm.setPc (x : Vm) (pc : Word) : Vm := { x with pc := pc }

def Vm.setCond (x : Vm) (c : Cond) : Vm := { x with cond := c }

def Vm.store (x : Vm) (a v : Word) : Vm := { x with mem := x.mem.write a v }

def Vm.setPend (x : Vm) (p : Pend) : Vm := { x with pend := p }

/-- `running <- false` (R205). -/
def Vm.halt (x : Vm) : Vm := { x with running := false }

/-- `icount <- icount + 1` (R154). -/
def Vm.count (x : Vm) : Vm := { x with icount := x.icount + 1 }

def Vm.countSent (x : Vm) : Vm := { x with messagesSent := x.messagesSent + 1 }

def Vm.countReceived (x : Vm) : Vm := { x with messagesReceived := x.messagesReceived + 1 }

def Vm.countSpin (x : Vm) : Vm := { x with receiveSpinIterations := x.receiveSpinIterations + 1 }

/-- The loop condition: an iteration starts only then (R155). -/
def Vm.mayIterate (x : Vm) (budget : Nat) : Bool := x.running && decide (x.icount < budget)

/-- Terminated: no spin pending, and halted or out of budget (R156). -/
def Vm.terminated (x : Vm) (budget : Nat) : Bool := decide (x.pend = .none) && !x.mayIterate budget

/-! ### The instance that executes -/

/-- Instance `v` (R15). -/
def State.vm (s : State) : VmId → Vm
  | .P => s.vmP
  | .C => s.vmC

def State.setVm (s : State) (v : VmId) (x : Vm) : State :=
  match v with
  | .P => { s with vmP := x }
  | .C => { s with vmC := x }

/-- The instance whose turn it is: unprefixed names belong to it (R15). -/
def State.cur (s : State) : Vm := s.vm s.active

/-- It is instance `v` that executes. -/
def State.activate (s : State) (v : VmId) : State := { s with active := v }

/-- The ring buffer becomes `q`. -/
def State.setRing (s : State) (q : Ring) : State := { s with q := q }

/-- A change of that instance's private state. -/
def State.updCur (s : State) (f : Vm → Vm) : State := s.setVm s.active (f s.cur)

/-- `x[i]` (R14). -/
def State.readReg (s : State) (r : RegId) : Word := s.cur.reg r

/-- `x[i] <- v` (R14). No register is hard-wired (R30). -/
def State.writeReg (s : State) (r : RegId) (v : Word) : State := s.updCur (·.setReg r v)

/-- `pc <- t` (R14). -/
def State.setPc (s : State) (pc : Word) : State := s.updCur (·.setPc pc)

/-- `setcc(v)` (R14, R33). -/
def State.setcc (s : State) (v : Word) : State := s.updCur (·.setCond (condOf v))

/-- `if b then setcc(v)` (R181). -/
def State.setccIf (s : State) (b : Bool) (v : Word) : State :=
  s.updCur fun x => if b then x.setCond (condOf v) else x

/-- `MemRead(a, 1)` in the executing instance's memory. -/
def State.load (s : State) (a : Word) : Word := s.cur.mem.read a

/-- `MemWrite(a, 1, v)` in the executing instance's memory. -/
def State.store (s : State) (a v : Word) : State := s.updCur (·.store a v)

/-- `x[DR] <- r; setcc(r)`: how ADD, AND and NOT end (R170). -/
def State.writeResult (s : State) (dr : RegId) (r : Word) : State := (s.writeReg dr r).setcc r

/-- The iteration is counted (R154). -/
def State.retire (s : State) : State := s.updCur Vm.count

/-- `Out(b)`: the byte is appended to the shared stream (R14, R39, R204). -/
def State.emit (s : State) (b : Byte) : State := { s with out := s.out ++ [b] }

/-- What a recognised TRAP does on entry: nothing, unless `TRAP_SAVES_R7`, and then `x[7] <- pc` (R201, D5). No
state is saved, no mode changes, control goes nowhere (R200, R235). -/
def State.trapEntry (s : State) : State := s.updCur fun x => if s.cfg.trapSavesR7 then x.setReg 7 x.pc else x

/-- A word with no effect beyond being counted (R212, R220). -/
def State.noEffect (s : State) : State := s.retire

/-- What an unrecognised opcode or vector does, by the parameter `UNRECOGNIZED` (R42, R212, R220, U1, U2; log
entry 10): nothing but to be counted, or a refusal. -/
def State.unrecognised (s : State) : Host.Outcome State Fault Refusal :=
  match s.cfg.unrecognized with
  | .nop => .next s.noEffect
  | .refuse => .refused .unrecognisedWord

/-! ### The ring buffer -/

/-- `push(value)` as one step (R122, R125): `none` is the result false, with nothing written; otherwise the ring
afterwards. The producer reads its own `head` and its view of `tail`. -/
def Ring.push (n : Nat) (q : Ring) (value : Word) : Option Ring :=
  if (q.head + 1) % n = q.tailP then none
  else some { q with buffer := q.buffer.set q.head (some value), head := (q.head + 1) % n }

/-- The results of `pop()` (R123). -/
inductive PopResult where
  /-- `none`: empty as seen, nothing written. -/
  | empty
  /-- `some v`, and the ring afterwards. -/
  | value (v : Word) (q : Ring)
  /-- The slot has no value; in no state that a run reaches (R133). -/
  | unwritten
  deriving DecidableEq, Repr

/-- `pop()` as one step (R124, R125). The consumer reads its own `tail` and its view of `head`; the slot keeps
its value. -/
def Ring.pop (n : Nat) (q : Ring) : PopResult :=
  if q.headC = q.tail then .empty
  else
    match q.buffer[q.tail]? with
    | some (some v) => .value v { q with tail := (q.tail + 1) % n }
    | some none => .unwritten
    | none => .unwritten

/-- One step of `SyncTail`; without its guard there is no effect (R126). -/
def Ring.syncTail (n : Nat) (q : Ring) : Ring :=
  if q.tailP ≠ q.tail then { q with tailP := (q.tailP + 1) % n } else q

/-- One step of `SyncHead`; without its guard there is no effect (R126). -/
def Ring.syncHead (n : Nat) (q : Ring) : Ring :=
  if q.headC ≠ q.head then { q with headC := (q.headC + 1) % n } else q

/-- All enabled Sync steps: both views are current (R135). -/
def Ring.syncAll (q : Ring) : Ring := { q with tailP := q.tail, headC := q.head }

/-- How many items are outstanding: `(head - tail) mod N` (R25). -/
def Ring.count (n : Nat) (q : Ring) : Nat := (q.head + n - q.tail) % n

/-- The value in slot `i`, if it has one. -/
def Ring.slot (q : Ring) (i : Nat) : Option Word := (q.buffer[i]?).join

/-- The outstanding items, oldest first: the slots `tail .. head-1`, modulo `N` (R25, R132). -/
def Ring.contents (n : Nat) (q : Ring) : List Word :=
  (List.range (q.count n)).filterMap fun j => q.slot ((q.tail + j) % n)

/-! ### SEND and RECV, one attempt -/

/-- The executing instance performs `push`: it is the producer of the run from now on, unless another is already
(R127, D25). -/
def State.claimPush (s : State) : Option State :=
  match s.producer with
  | none => some { s with producer := some s.active }
  | some v => if v = s.active then some s else none

/-- The executing instance performs `pop` (R127, D25). -/
def State.claimPop (s : State) : Option State :=
  match s.consumer with
  | none => some { s with consumer := some s.active }
  | some v => if v = s.active then some s else none

/-- An instance that both pushes and pops has current views at each of its operations (R77, R135). -/
def State.refreshViews (s : State) : State :=
  if s.producer = some s.active ∧ s.consumer = some s.active then s.setRing s.q.syncAll else s

/-- One attempt of SEND (R206): `Q.push(x[0])`; on success the SEND completes and is counted, on failure it
stays pending and nothing else changes. -/
def State.attemptSend (s : State) : Host.Outcome State Fault Refusal :=
  match s.claimPush with
  | none => .fault (.spscViolation s.active .push)
  | some s1 =>
    let s2 := s1.refreshViews
    match s2.q.push s2.cfg.capacity (s2.readReg 0) with
    | none => .next s2
    | some q' => .next ((s2.setRing q').updCur fun x => (x.countSent.setPend .none).count)

/-- One attempt of RECV (R207): `Q.pop()`; on success the value goes to `x[0]`, `COND` is set from it and the
RECV completes and is counted; on failure `receiveSpinIterations` goes up and it stays pending. -/
def State.attemptRecv (s : State) : Host.Outcome State Fault Refusal :=
  match s.claimPop with
  | none => .fault (.spscViolation s.active .pop)
  | some s1 =>
    let s2 := s1.refreshViews
    match s2.q.pop s2.cfg.capacity with
    | .empty => .next (s2.updCur Vm.countSpin)
    | .value v q' =>
      .next ((((s2.setRing q').writeReg 0 v).setcc v).updCur fun x => (x.countReceived.setPend .none).count)
    | .unwritten => .fault .unwrittenSlot

/-! ### Turns -/

/-- Whose turn is next: the first of the schedule, or the free value where there is none (R18, log entry 7). -/
def State.turn (s : State) : Turn :=
  match s.sched with
  | t :: _ => t
  | [] => Config.freeTurn s.tick

/-- The turn is taken from the schedule and counted. -/
def State.takeTurn (s : State) : State := { s with sched := s.sched.tail, tick := s.tick + 1 }

/-- The word that the executing instance fetches: `MemRead(pc, 1)` (R151). -/
def State.fetchWord (s : State) : Word := s.load s.cur.pc

/-- `pc <- pc + 1`, modulo 2^16 (R151). -/
def State.advancePc (s : State) : State := s.setPc (nextAddr s.cur.pc)

/-- `SyncTail`'s step of the machine (R126). -/
def State.syncTail (s : State) : State := s.setRing (s.q.syncTail s.cfg.capacity)

/-- `SyncHead`'s step of the machine (R126). -/
def State.syncHead (s : State) : State := s.setRing (s.q.syncHead s.cfg.capacity)

end Sys2Proof.Machine
end

