-- ==== Sys2Proof/Machine/Control.lean ====
section
/-! DEFINITION. BR, JSR and JMP (R190 to R194). None writes `COND`. -/

namespace Sys2Proof.Machine

/-- BR (R191). -/
def execBr (mask : BitVec 3) (off9 : BitVec 9) (s : State) : Host.Outcome State Fault Refusal :=
  .next (s.setPc (if branchTaken mask s.cur.cond then pcRel9 s.cur.pc off9 else s.cur.pc)).retire

/-- JSR: `x[7] <- pc`, then `pc <- pc + sext_11(off11)` (R192). -/
def execJsr (off11 : BitVec 11) (s : State) : Host.Outcome State Fault Refusal :=
  .next ((s.writeReg 7 s.cur.pc).setPc (pcRel11 s.cur.pc off11)).retire

/-- JMP: `pc <- x[BaseR]` (R193). -/
def execJmp (baseR : RegId) (s : State) : Host.Outcome State Fault Refusal :=
  .next (s.setPc (s.readReg baseR)).retire

end Sys2Proof.Machine
end

