-- ==== Sys2Proof/Machine/LoadStore.lean ====
section
/-! DEFINITION. LD and ST (R180 to R182). -/

namespace Sys2Proof.Machine

/-- LD (R181): `COND` is set from the loaded value if `LD_SETS_CC` (D2). -/
def execLd (dr : RegId) (off9 : BitVec 9) (s : State) : Host.Outcome State Fault Refusal :=
  let v := s.load (pcRel9 s.cur.pc off9)
  .next ((s.writeReg dr v).setccIf s.cfg.ldSetsCC v).retire

/-- ST (R182). -/
def execSt (sr : RegId) (off9 : BitVec 9) (s : State) : Host.Outcome State Fault Refusal :=
  .next (s.store (pcRel9 s.cur.pc off9) (s.readReg sr)).retire

end Sys2Proof.Machine
end

