-- ==== Sys2Proof/Machine/Operate.lean ====
section
/-! DEFINITION. ADD, AND and NOT (R170 to R176). The pc is already the address of the next instruction. -/

namespace Sys2Proof.Machine

/-- ADD, register mode (R171). -/
def execAddReg (dr sr1 sr2 : RegId) (s : State) : Host.Outcome State Fault Refusal :=
  .next (s.writeResult dr (s.readReg sr1 + s.readReg sr2)).retire

/-- ADD, immediate mode (R172). -/
def execAddImm (dr sr1 : RegId) (imm5 : BitVec 5) (s : State) : Host.Outcome State Fault Refusal :=
  .next (s.writeResult dr (s.readReg sr1 + immOperand imm5)).retire

/-- AND, register mode (R173). -/
def execAndReg (dr sr1 sr2 : RegId) (s : State) : Host.Outcome State Fault Refusal :=
  .next (s.writeResult dr (s.readReg sr1 &&& s.readReg sr2)).retire

/-- AND, immediate mode: the immediate is sign-extended before the AND (R174). -/
def execAndImm (dr sr1 : RegId) (imm5 : BitVec 5) (s : State) : Host.Outcome State Fault Refusal :=
  .next (s.writeResult dr (s.readReg sr1 &&& immOperand imm5)).retire

/-- NOT (R175). -/
def execNot (dr sr : RegId) (s : State) : Host.Outcome State Fault Refusal :=
  .next (s.writeResult dr (~~~ s.readReg sr)).retire

end Sys2Proof.Machine
end

