-- ==== Sys2Proof/Machine/Trap.lean ====
section
/-! DEFINITION. TRAP and its services (R200 to R212). No service changes the pc. -/

namespace Sys2Proof.Machine

/-- OUT: the low byte of `x[0]` is appended to the output stream (R204). -/
def execTrapOut (s : State) : Host.Outcome State Fault Refusal :=
  .next (s.trapEntry.emit (lowByte (s.readReg 0))).retire

/-- HALT: `running <- false`, and nothing else (R205). -/
def execTrapHalt (s : State) : Host.Outcome State Fault Refusal :=
  .next (s.trapEntry.updCur Vm.halt).retire

/-- SEND: `pend <- Send`, and the first attempt in the same step, which R206 and D17 allow (log entry 11). -/
def execTrapSend (s : State) : Host.Outcome State Fault Refusal :=
  (s.trapEntry.updCur (·.setPend .send)).attemptSend

/-- RECV: `pend <- Recv`, and the first attempt in the same step (R207, D17, log entry 11). -/
def execTrapRecv (s : State) : Host.Outcome State Fault Refusal :=
  (s.trapEntry.updCur (·.setPend .recv)).attemptRecv

/-- TRAP with an unrecognised vector, whichever it is: what `UNRECOGNIZED` says, by default no effect but to be
counted (R212, log entry 10). `x[7]` is left alone whatever `TRAP_SAVES_R7` says (log entry 9). -/
def execTrapOther (_vect8 : BitVec 8) (s : State) : Host.Outcome State Fault Refusal :=
  s.unrecognised

end Sys2Proof.Machine
end

