-- ==== Sys2Proof/Machine/Unrecognised.lean ====
section
/-! DEFINITION. The seven unrecognised opcodes (R220 to R227): what each does is the parameter
`UNRECOGNIZED` (R42), and by default it is counted and otherwise without effect (D3, log entry 10). -/

namespace Sys2Proof.Machine

/-- Opcode 0110 (R221). -/
def execUnrec6 (s : State) : Host.Outcome State Fault Refusal := s.unrecognised

/-- Opcode 0111 (R222). -/
def execUnrec7 (s : State) : Host.Outcome State Fault Refusal := s.unrecognised

/-- Opcode 1000 (R223). -/
def execUnrec8 (s : State) : Host.Outcome State Fault Refusal := s.unrecognised

/-- Opcode 1010 (R224). -/
def execUnrecA (s : State) : Host.Outcome State Fault Refusal := s.unrecognised

/-- Opcode 1011 (R225). -/
def execUnrecB (s : State) : Host.Outcome State Fault Refusal := s.unrecognised

/-- Opcode 1101 (R226). -/
def execUnrecD (s : State) : Host.Outcome State Fault Refusal := s.unrecognised

/-- Opcode 1110 (R227). -/
def execUnrecE (s : State) : Host.Outcome State Fault Refusal := s.unrecognised

end Sys2Proof.Machine
end

