-- ==== Sys2Proof/Machine/Dispatch.lean ====
section
/-! DEFINITION. One arm per constructor of Instr: the execute phase of a loop iteration (R153). -/

namespace Sys2Proof.Machine

def exec (i : Instr) (s : State) : Host.Outcome State Fault Refusal :=
  match i with
  | .br mask off9 => Sys2Proof.Machine.execBr mask off9 s
  | .addReg dr sr1 sr2 => Sys2Proof.Machine.execAddReg dr sr1 sr2 s
  | .addImm dr sr1 imm5 => Sys2Proof.Machine.execAddImm dr sr1 imm5 s
  | .andReg dr sr1 sr2 => Sys2Proof.Machine.execAndReg dr sr1 sr2 s
  | .andImm dr sr1 imm5 => Sys2Proof.Machine.execAndImm dr sr1 imm5 s
  | .not dr sr => Sys2Proof.Machine.execNot dr sr s
  | .ld dr off9 => Sys2Proof.Machine.execLd dr off9 s
  | .st sr off9 => Sys2Proof.Machine.execSt sr off9 s
  | .jsr off11 => Sys2Proof.Machine.execJsr off11 s
  | .jmp baseR => Sys2Proof.Machine.execJmp baseR s
  | .trapOut => Sys2Proof.Machine.execTrapOut s
  | .trapHalt => Sys2Proof.Machine.execTrapHalt s
  | .trapSend => Sys2Proof.Machine.execTrapSend s
  | .trapRecv => Sys2Proof.Machine.execTrapRecv s
  | .trapOther vect8 => Sys2Proof.Machine.execTrapOther vect8 s
  | .unrec6 => Sys2Proof.Machine.execUnrec6 s
  | .unrec7 => Sys2Proof.Machine.execUnrec7 s
  | .unrec8 => Sys2Proof.Machine.execUnrec8 s
  | .unrecA => Sys2Proof.Machine.execUnrecA s
  | .unrecB => Sys2Proof.Machine.execUnrecB s
  | .unrecD => Sys2Proof.Machine.execUnrecD s
  | .unrecE => Sys2Proof.Machine.execUnrecE s

end Sys2Proof.Machine
end

