-- ==== Sys2Proof/Machine/Cycle.lean ====
section
/-! DEFINITION. The turn of an instance: one loop iteration, or one attempt of a pending SEND or RECV (R150 to
R160); and how a word is placed to be the next one fetched. Machine/Step.lean only calls what stands here. -/

namespace Sys2Proof.Machine

/-- One loop iteration: fetch, increment the pc, decode, execute (R151 to R153). The count of R154 is part of
each meaning, since a SEND or RECV is counted only when it succeeds. -/
def iterate (s : State) : Host.Outcome State Fault Refusal := exec (decode s.fetchWord) s.advancePc

/-- The turn of instance `v` (R150). A terminated instance has no step: its turn changes nothing (R156, log
entry 17). The budget is looked at between instructions only (R155, R158). -/
def vmTurn (v : VmId) (s : State) : Host.Outcome State Fault Refusal :=
  match (s.vm v).pend with
  | .send => (s.activate v).attemptSend
  | .recv => (s.activate v).attemptRecv
  | .none => if (s.vm v).mayIterate (s.cfg.budget v) then iterate (s.activate v) else .next s

/-- The parameters with `BUDGET[v]` at least `n`. -/
def allowBudget (c : Config) (v : VmId) (n : Nat) : Config :=
  match v with
  | .P => { c with budgetP := max c.budgetP n }
  | .C => { c with budgetC := max c.budgetC n }

/-- The state whose next step is a loop iteration of instance `v` that fetches `w`: the word stands at the
instance's pc, its turn is next, it runs with no spin pending and its budget lets it execute one more
instruction. -/
def State.placeWord (s : State) (v : VmId) (w : Word) : State :=
  let x := s.vm v
  let s1 := s.setVm v { x with mem := x.mem.write x.pc w, running := true, pend := .none }
  { s1 with cfg := allowBudget s.cfg v (x.icount + 1), sched := .vm v :: s.sched }

end Sys2Proof.Machine
end

