-- ==== Sys2Proof/Machine/Step.lean ====
section
/-! DEFINITION. One step of the machine: the next turn is taken (R17, R18). -/

namespace Sys2Proof.Machine

/-- One step. An agent whose turn it is and that has no step changes nothing (R126, R156); a turn of the host's
Abort ends the run with no state (R236). -/
def step (s : State) : Host.Outcome State Fault Refusal :=
  match s.turn with
  | .vm v => vmTurn v s.takeTurn
  | .syncHead => .next s.takeTurn.syncHead
  | .syncTail => .next s.takeTurn.syncTail
  | .abort => .fault .abort

/-- `s` with the word `w` stored where `step` fetches its next instruction: at the pc of `VM[P]`, whose turn is
next (log entry 18). Every instruction is one word of 16 bits (R90), so `nbits` says nothing further. -/
def State.withFetchWord (s : State) (_nbits w : Nat) : State := s.placeWord .P (BitVec.ofNat 16 w)

end Sys2Proof.Machine
end

