-- ==== Sys2Proof/Machine/HardwareMap.lean ====
section
/-! DEFINITION. The spec's own hardware mapping of the ring buffer (R27, R140 to R142): ports, Gray-coded
pointer crossing, placement of the indices. The machine's step does not use it (R140, D14, D15, D16; log
entry 24): it adds no behaviour to `push`, `pop` and the views. -/

namespace Sys2Proof.Machine

/-! ### Gray code (R141) -/

/-- `g = b xor (b >> 1)`. -/
def grayEncode (b : Nat) : Nat := b ^^^ (b >>> 1)

/-- `b[K-1] = g[K-1]`, `b[i] = b[i+1] xor g[i]`, for a code of `k` bits. -/
def grayDecode : Nat → Nat → Nat
  | 0, _ => 0
  | k + 1, g =>
    let high := grayDecode k (g / 2)
    2 * high + (high + g) % 2

/-- A two-flop synchroniser that carries an index into the other clock domain. -/
structure Synchroniser where
  first : Nat
  second : Nat
  deriving DecidableEq, Repr

/-- One clock of the receiving domain: the Gray code of the whole source index is sampled (DEDUCED, log entry 24). -/
def Synchroniser.clock (y : Synchroniser) (index : Nat) : Synchroniser :=
  { first := grayEncode index, second := y.first }

/-- The view it shows: `head_c` or `tail_p`. -/
def Synchroniser.view (k : Nat) (y : Synchroniser) : Nat := grayDecode k y.second

/-! ### Ports (R140): one request is one operation -/

/-- The producer side: from `push_req` and `push_data` to `push_ok` and the ring afterwards. R140 gives `push_ok` as
the result of a requested `push` only. DESIGN CHOICE, log entry 26: without a request `push_ok` shows 0. -/
def Ring.producerPort (n : Nat) (q : Ring) (pushReq : Bool) (pushData : Word) : Bool × Ring :=
  if pushReq then
    match q.push n pushData with
    | some q' => (true, q')
    | none => (false, q)
  else (false, q)

/-- The consumer side: from `pop_req` to `pop_data` with `pop_ok` (a value exactly when `pop_ok` is 1) and the
ring afterwards. R140 gives both as the result of a requested `pop` only. DESIGN CHOICE, log entry 26: without
a request `pop_ok` shows 0; and a requested `pop` that finds a slot without a value, which R133 says no run
reaches, shows `pop_ok = 0` with the ring unchanged. -/
def Ring.consumerPort (n : Nat) (q : Ring) (popReq : Bool) : Option Word × Ring :=
  if popReq then
    match q.pop n with
    | .value v q' => (some v, q')
    | .empty => (none, q)
    | .unwritten => (none, q)
  else (none, q)

/-! ### Placement (R27, R142) -/

/-- Where a memory-mapped realisation puts the two indices and the slots, as byte addresses and a size. -/
structure Placement where
  headAddr : Nat
  tailAddr : Nat
  bufferAddr : Nat
  bufferBytes : Nat
  deriving DecidableEq, Repr

/-- R142: each index in a `CACHE_LINE`-aligned block of its own, with no other writable state in it. -/
def Placement.separated (p : Placement) (c : Config) : Bool :=
  let line := c.cacheLine
  decide (0 < line) && decide (p.headAddr % line = 0) && decide (p.tailAddr % line = 0)
    && decide (p.headAddr ≠ p.tailAddr)
    && decide (p.bufferAddr + p.bufferBytes ≤ p.headAddr ∨ p.headAddr + line ≤ p.bufferAddr)
    && decide (p.bufferAddr + p.bufferBytes ≤ p.tailAddr ∨ p.tailAddr + line ≤ p.bufferAddr)

end Sys2Proof.Machine
end

