-- ==== Sys2Proof/Machine/Harness.lean ====
section
/-! DEFINITION. The host's part of a run: the image load and the construction of the machine (R260 to R267), the
end of a run and what is read then (R156, R268 to R270). -/

namespace Sys2Proof.Machine

/-! ### Launch -/

/-- A program image: its origin and its words (R264). -/
structure Image where
  origin : Word
  words : List Word
  deriving DecidableEq, Repr

/-- Big-endian words of a byte sequence; an odd byte left over is malformed (R265, D23). -/
def parseWords : List Byte → Option (List Word)
  | [] => some []
  | [_] => none
  | hi :: lo :: rest => (parseWords rest).map ((hi ++ lo) :: ·)

/-- A well-formed image: the origin word, then words that do not run past cell 0xFFFF (R264, R265, D23). -/
def parseImage (file : List Byte) : Option Image :=
  match parseWords file with
  | none => none
  | some [] => none
  | some (o :: ws) => if o.toNat + ws.length ≤ 65536 then some { origin := o, words := ws } else none

/-- What the host gives one instance: its image file, if it can be read at all (R238), and the start values
that the source leaves open, `X0`, `COND0` and `MEM0` (R9, R44, D10). -/
structure VmLaunch where
  file : Option (List Byte)
  regs : Vector Word 8
  cond : Cond
  mem : Memory
  deriving DecidableEq, Repr

/-- What the host gives a run (R262). -/
structure Launch where
  cfg : Config
  p : VmLaunch
  c : VmLaunch
  deriving DecidableEq, Repr

/-- What the launch gives instance `v`. -/
def Launch.vm (l : Launch) : VmId → VmLaunch
  | .P => l.p
  | .C => l.c

/-- The instance with its image loaded and the pc at the origin (R264, R266); the rest as R44 says. -/
def Vm.construct (l : VmLaunch) (im : Image) : Vm :=
  { regs := l.regs, pc := im.origin, cond := l.cond, mem := l.mem.writeAll im.origin im.words, running := true,
    icount := 0, messagesSent := 0, messagesReceived := 0, receiveSpinIterations := 0, pend := .none }

/-- The instance that a launch makes, if its image loads (R238). -/
def VmLaunch.load (l : VmLaunch) : Option Vm := (l.file.bind parseImage).map (Vm.construct l)

/-- The host's sequence up to the start of both instances (R262): `Q` first, then both images; if either
load fails no instance ever steps (R238, D28), and a capacity of one slot is refused (U15). Which instance is
named when both fail is the model's choice (log entry 15). -/
def State.boot (l : Launch) : Host.Outcome State Fault Refusal :=
  if l.cfg.wf then
    match l.p.load, l.c.load with
    | some p, some c =>
      .next { cfg := l.cfg, q := Ring.reset l.cfg.capacity, producer := none, consumer := none,
              vmP := p, vmC := c, out := [], active := .P, sched := [], tick := 0 }
    | none, _ => .fault (.imageLoadFailure .P)
    | some _, none => .fault (.imageLoadFailure .C)
  else .refused .badCapacity

/-- The launch of `State.reset`: the empty image of origin 0 and zeros (log entries 2 to 6). -/
def Launch.reset : Launch :=
  let l : VmLaunch := { file := some [0x00#8, 0x00#8], regs := Vector.replicate 8 0x0000#16, cond := .z, mem := [] }
  { cfg := resetConfig, p := l, c := l }

/-! ### The end of a run -/

/-- How an instance stopped (R156): HALT cleared `running`, or the budget was reached with it still true. -/
inductive StopKind where
  | halt
  | budget
  deriving DecidableEq, Repr

/-- The kind of stop of a terminated instance (R156). -/
def Vm.stopKind (x : Vm) (budget : Nat) : Option StopKind :=
  if x.terminated budget then some (if x.running then .budget else .halt) else none

/-- Both instances have terminated (R268, R269). Views that lag and values left in `Q` do not matter. -/
def State.final (s : State) : Bool :=
  s.vmP.terminated (s.cfg.budget .P) && s.vmC.terminated (s.cfg.budget .C)

/-- What the host reads of one instance (R270). -/
structure VmReport where
  icount : Nat
  messagesSent : Nat
  messagesReceived : Nat
  receiveSpinIterations : Nat
  stop : StopKind
  deriving DecidableEq, Repr

/-- The report of a terminated instance (R43, R270). -/
def Vm.report (x : Vm) (budget : Nat) : Option VmReport :=
  (x.stopKind budget).map fun k =>
    { icount := x.icount, messagesSent := x.messagesSent, messagesReceived := x.messagesReceived,
      receiveSpinIterations := x.receiveSpinIterations, stop := k }

/-- The reports of both instances, once the run is complete (R262 steps 4 and 5). -/
def State.report (s : State) : Option (VmReport × VmReport) :=
  match s.vmP.report (s.cfg.budget .P), s.vmC.report (s.cfg.budget .C) with
  | some p, some c => some (p, c)
  | _, _ => none

end Sys2Proof.Machine
end

