-- ==== Sys2Proof/Safety.lean ====
section
/-! DEFINITION. The terms that claims use: the invariants of the ring, of an instance and of the machine; what a
step leaves unchanged; the values that pass through the ring in a run; fair runs. -/

namespace Sys2Proof.Machine

/-! ### Invariants -/

/-- The distance forward from `tail_p` to index `i`: `d(i) = (i - tail_p) mod N` (R26, R130). -/
def Ring.dist (n : Nat) (q : Ring) (i : Nat) : Nat := (i + n - q.tailP) % n

/-- The invariant of the ring buffer with `n` slots (R21 to R26, R130, R133): `n` slots, four indices below `n`
in the order `tail_p, tail, head_c, head`, and a value in every slot that holds an outstanding item. -/
structure Ring.Inv (n : Nat) (q : Ring) : Prop where
  slots : q.buffer.length = n
  head_lt : q.head < n
  tail_lt : q.tail < n
  tailP_lt : q.tailP < n
  headC_lt : q.headC < n
  tail_le_headC : q.dist n q.tail ≤ q.dist n q.headC
  headC_le_head : q.dist n q.headC ≤ q.dist n q.head
  written : ∀ j < q.count n, (q.slot ((q.tail + j) % n)).isSome = true

/-- The invariant of an instance: its memory is in canonical form, it has executed no more instructions than its
budget (R155), and it is inside a SEND or RECV only while it runs with budget left (R150, R158). -/
structure Vm.Inv (budget : Nat) (x : Vm) : Prop where
  memory : x.mem.wf = true
  counted : x.icount ≤ budget
  spinning : x.pend ≠ .none → x.running = true ∧ x.icount < budget

/-- The invariant of the machine: of its parts; every value sent is received or outstanding (R132, R208); and who
has sent, or is inside a SEND, is the producer, likewise the consumer (R127). -/
structure State.Inv (s : State) : Prop where
  config : s.cfg.wf = true
  ring : s.q.Inv s.cfg.capacity
  vms : ∀ v, (s.vm v).Inv (s.cfg.budget v)
  balance : s.vmP.messagesSent + s.vmC.messagesSent
    = s.vmP.messagesReceived + s.vmC.messagesReceived + s.q.count s.cfg.capacity
  sender : ∀ v, 0 < (s.vm v).messagesSent ∨ (s.vm v).pend = .send → s.producer = some v
  receiver : ∀ v, 0 < (s.vm v).messagesReceived ∨ (s.vm v).pend = .recv → s.consumer = some v

/-- A launch whose start memories are in canonical form. -/
def Launch.wf (l : Launch) : Bool := l.p.mem.wf && l.c.mem.wf

/-! ### Words and numbers, as the spec writes them -/

/-- `v[hi:lo]`, an unsigned number of `hi-lo+1` bits (R11). -/
def wordBits (v : Word) (hi lo : Nat) : Nat := v.toNat / 2 ^ lo % 2 ^ (hi - lo + 1)

/-- The general register that `v[hi:lo]` numbers. -/
def regAt (v : Word) (hi lo : Nat) : RegId := Fin.ofNat 8 (wordBits v hi lo)

/-- `sext_k(f)` by the formula of R13: `f` if its top bit is 0, else `f + (65536 - 2^k)`. -/
def sextNat (k f : Nat) : Nat := if f < 2 ^ (k - 1) then f else f + (65536 - 2 ^ k)

/-! ### What stays the same -/

/-- `COND` reads as R33 says for the result `v`. -/
def CondReads (c : Cond) (v : Word) : Prop :=
  (c = .z ↔ v.toNat = 0) ∧ (c = .p ↔ 0x0001 ≤ v.toNat ∧ v.toNat ≤ 0x7FFF) ∧ (c = .n ↔ 0x8000 ≤ v.toNat)

/-- R191's outcome table, by columns: the masks `n z p`, read as numbers, with which BR is taken. -/
def takenMasks : Cond → List Nat
  | .n => [0b000, 0b100, 0b101, 0b110, 0b111]
  | .z => [0b000, 0b010, 0b011, 0b110, 0b111]
  | .p => [0b000, 0b001, 0b011, 0b101, 0b111]

/-- Every register but those listed is unchanged. -/
def Vm.RegsKept (x y : Vm) (except : List RegId) : Prop := ∀ r, r ∉ except → y.reg r = x.reg r

/-- Every cell of memory reads as before. -/
def Vm.MemKept (x y : Vm) : Prop := ∀ a : Word, y.mem.read a = x.mem.read a

/-- The iteration is counted, and the other three counters are unchanged (R36, R154). -/
def Vm.Counted (x y : Vm) : Prop :=
  y.icount = x.icount + 1 ∧ y.messagesSent = x.messagesSent ∧ y.messagesReceived = x.messagesReceived
    ∧ y.receiveSpinIterations = x.receiveSpinIterations

/-- `running` and the spin phase are unchanged. -/
def Vm.RunKept (x y : Vm) : Prop := y.running = x.running ∧ y.pend = x.pend

/-- The parameters, the turns and the instance that is not executing are unchanged. -/
def State.RestKept (s t : State) : Prop :=
  t.cfg = s.cfg ∧ t.active = s.active ∧ t.sched = s.sched ∧ t.tick = s.tick
    ∧ t.vm s.active.other = s.vm s.active.other

/-- The ring buffer and who uses it are unchanged. -/
def State.RingKept (s t : State) : Prop := t.q = s.q ∧ t.producer = s.producer ∧ t.consumer = s.consumer

/-- Everything outside the executing instance is unchanged. -/
def State.OutsideKept (s t : State) : Prop := s.RestKept t ∧ s.RingKept t ∧ t.out = s.out

/-- The effect of an operate instruction: `x[DR]` holds `r`, `COND` reads it, the iteration is counted, and nothing
else changes (R170). -/
def State.Operates (s t : State) (dr : RegId) (r : Nat) : Prop :=
  (t.cur.reg dr).toNat = r ∧ CondReads t.cur.cond (t.cur.reg dr) ∧ s.cur.RegsKept t.cur [dr]
    ∧ t.cur.pc = s.cur.pc ∧ s.cur.MemKept t.cur ∧ s.cur.Counted t.cur ∧ s.cur.RunKept t.cur ∧ s.OutsideKept t

/-- The effect of a control transfer: the pc is `target`, the registers but those listed, `COND` and memory are
unchanged, the iteration is counted, and nothing else changes (R190). -/
def State.Transfers (s t : State) (target : Nat) (except : List RegId) : Prop :=
  t.cur.pc.toNat = target ∧ s.cur.RegsKept t.cur except ∧ t.cur.cond = s.cur.cond ∧ s.cur.MemKept t.cur
    ∧ s.cur.Counted t.cur ∧ s.cur.RunKept t.cur ∧ s.OutsideKept t

/-- A word without effect: it is counted, and nothing else changes (R212, R220). -/
def State.OnlyCounted (s t : State) : Prop :=
  s.cur.RegsKept t.cur [] ∧ t.cur.cond = s.cur.cond ∧ t.cur.pc = s.cur.pc ∧ s.cur.MemKept t.cur
    ∧ s.cur.Counted t.cur ∧ s.cur.RunKept t.cur ∧ s.OutsideKept t

/-- What TRAP does to the registers on entry: `x[7]` is the pc where `TRAP_SAVES_R7`, and otherwise unchanged
(R201, D5). The other registers are named by whoever uses this. -/
def State.TrapLinks (s t : State) : Prop :=
  t.cur.reg 7 = if s.cfg.trapSavesR7 then s.cur.pc else s.cur.reg 7

/-! ### Which instruction writes what (R30 to R36) -/

/-- The general registers an instruction may write: the table of R30, and `x[7]` by a recognised TRAP where
`TRAP_SAVES_R7` (D5). -/
def writesRegs (c : Config) : Instr → List RegId
  | .br _ _ => []
  | .addReg dr _ _ => [dr]
  | .addImm dr _ _ => [dr]
  | .andReg dr _ _ => [dr]
  | .andImm dr _ _ => [dr]
  | .not dr _ => [dr]
  | .ld dr _ => [dr]
  | .st _ _ => []
  | .jsr _ => [7]
  | .jmp _ => []
  | .trapOut => if c.trapSavesR7 then [7] else []
  | .trapHalt => if c.trapSavesR7 then [7] else []
  | .trapSend => if c.trapSavesR7 then [7] else []
  | .trapRecv => if c.trapSavesR7 then [0, 7] else [0]
  | .trapOther _ => []
  | .unrec6 => []
  | .unrec7 => []
  | .unrec8 => []
  | .unrecA => []
  | .unrecB => []
  | .unrecD => []
  | .unrecE => []

/-- Whether an instruction may write `COND` (R32): ADD, AND, NOT, LD where `LD_SETS_CC`, and RECV. -/
def writesCond (c : Config) : Instr → Bool
  | .br _ _ => false
  | .addReg _ _ _ => true
  | .addImm _ _ _ => true
  | .andReg _ _ _ => true
  | .andImm _ _ _ => true
  | .not _ _ => true
  | .ld _ _ => c.ldSetsCC
  | .st _ _ => false
  | .jsr _ => false
  | .jmp _ => false
  | .trapOut => false
  | .trapHalt => false
  | .trapSend => false
  | .trapRecv => true
  | .trapOther _ => false
  | .unrec6 => false
  | .unrec7 => false
  | .unrec8 => false
  | .unrecA => false
  | .unrecB => false
  | .unrecD => false
  | .unrecE => false

/-- Whether an instruction stands for the words that no instruction claims: the unrecognised vectors and the seven
unrecognised opcodes (R212, R220). -/
def unclaimed : Instr → Bool
  | .br _ _ => false
  | .addReg _ _ _ => false
  | .addImm _ _ _ => false
  | .andReg _ _ _ => false
  | .andImm _ _ _ => false
  | .not _ _ => false
  | .ld _ _ => false
  | .st _ _ => false
  | .jsr _ => false
  | .jmp _ => false
  | .trapOut => false
  | .trapHalt => false
  | .trapSend => false
  | .trapRecv => false
  | .trapOther _ => true
  | .unrec6 => true
  | .unrec7 => true
  | .unrec8 => true
  | .unrecA => true
  | .unrecB => true
  | .unrecD => true
  | .unrecE => true

/-! ### The queue as the two sides see it -/

/-- The value of `tail` that a `push` of the executing instance would read: its view, or the index itself where
the same instance also pops (R75, R77, R135). -/
def State.seenTail (s : State) : Nat := if s.consumer = some s.active then s.q.tail else s.q.tailP

/-- The value of `head` that a `pop` of the executing instance would read. -/
def State.seenHead (s : State) : Nat := if s.producer = some s.active then s.q.head else s.q.headC

/-- The executing instance may push: nobody has pushed yet, or it has (R127). -/
def State.mayPush (s : State) : Prop := s.producer = none ∨ s.producer = some s.active

/-- The executing instance may pop. -/
def State.mayPop (s : State) : Prop := s.consumer = none ∨ s.consumer = some s.active

/-- A successful SEND of the executing instance, its registers apart (R122, R206): the slot `head` holds `x[0]`,
`head` advances, the SEND is counted as an instruction and as a message; both views are as the push saw them. -/
def State.Sends (s t : State) : Prop :=
  t.q.buffer = s.q.buffer.set s.q.head (some (s.cur.reg 0)) ∧ t.q.head = (s.q.head + 1) % s.cfg.capacity
    ∧ t.q.tail = s.q.tail ∧ t.q.tailP = s.seenTail
    ∧ t.q.headC = (if s.consumer = some s.active then s.q.head else s.q.headC)
    ∧ t.producer = some s.active ∧ t.consumer = s.consumer ∧ t.out = s.out ∧ s.RestKept t
    ∧ t.cur.messagesSent = s.cur.messagesSent + 1 ∧ t.cur.icount = s.cur.icount + 1 ∧ t.cur.pend = .none
    ∧ t.cur.messagesReceived = s.cur.messagesReceived
    ∧ t.cur.receiveSpinIterations = s.cur.receiveSpinIterations ∧ t.cur.running = s.cur.running
    ∧ t.cur.cond = s.cur.cond ∧ t.cur.pc = s.cur.pc ∧ s.cur.MemKept t.cur

/-- A failed attempt of SEND, its registers and the producer's role apart (R206): it stays pending, no counter moves,
no slot and neither index changes. -/
def State.SendWaits (s t : State) : Prop :=
  t.q.buffer = s.q.buffer ∧ t.q.head = s.q.head ∧ t.q.tail = s.q.tail ∧ t.q.tailP = s.seenTail
    ∧ t.q.headC = (if s.consumer = some s.active then s.q.head else s.q.headC)
    ∧ t.consumer = s.consumer ∧ t.out = s.out ∧ s.RestKept t
    ∧ t.cur.pend = .send ∧ t.cur.icount = s.cur.icount ∧ t.cur.messagesSent = s.cur.messagesSent
    ∧ t.cur.messagesReceived = s.cur.messagesReceived
    ∧ t.cur.receiveSpinIterations = s.cur.receiveSpinIterations ∧ t.cur.running = s.cur.running
    ∧ t.cur.cond = s.cur.cond ∧ t.cur.pc = s.cur.pc ∧ s.cur.MemKept t.cur

/-- A successful RECV of the value `v`, `x[7]` apart (R124, R207): `x[0]` holds it, `COND` reads it, `tail`
advances, the slots keep their values, the RECV is counted as an instruction and as a message. -/
def State.Receives (s t : State) (v : Word) : Prop :=
  t.q.buffer = s.q.buffer ∧ t.q.tail = (s.q.tail + 1) % s.cfg.capacity ∧ t.q.head = s.q.head
    ∧ t.q.headC = s.seenHead ∧ t.q.tailP = (if s.producer = some s.active then s.q.tail else s.q.tailP)
    ∧ t.producer = s.producer ∧ t.consumer = some s.active ∧ t.out = s.out ∧ s.RestKept t
    ∧ t.cur.reg 0 = v ∧ CondReads t.cur.cond v
    ∧ t.cur.messagesReceived = s.cur.messagesReceived + 1 ∧ t.cur.icount = s.cur.icount + 1
    ∧ t.cur.pend = .none ∧ t.cur.messagesSent = s.cur.messagesSent
    ∧ t.cur.receiveSpinIterations = s.cur.receiveSpinIterations ∧ t.cur.running = s.cur.running
    ∧ t.cur.pc = s.cur.pc ∧ s.cur.MemKept t.cur

/-- A failed attempt of RECV, its registers and the consumer's role apart (R207): only `receiveSpinIterations`
moves. -/
def State.RecvWaits (s t : State) : Prop :=
  t.q.buffer = s.q.buffer ∧ t.q.tail = s.q.tail ∧ t.q.head = s.q.head
    ∧ t.q.headC = s.seenHead ∧ t.q.tailP = (if s.producer = some s.active then s.q.tail else s.q.tailP)
    ∧ t.producer = s.producer ∧ t.out = s.out ∧ s.RestKept t
    ∧ t.cur.receiveSpinIterations = s.cur.receiveSpinIterations + 1 ∧ t.cur.pend = .recv
    ∧ t.cur.icount = s.cur.icount ∧ t.cur.messagesSent = s.cur.messagesSent
    ∧ t.cur.messagesReceived = s.cur.messagesReceived ∧ t.cur.running = s.cur.running
    ∧ t.cur.cond = s.cur.cond ∧ t.cur.pc = s.cur.pc ∧ s.cur.MemKept t.cur

/-- The state in which instance `v` executes in its turn: the turn is taken and `v` is the one whose names the
rules use (R15, R150). -/
def State.turnOf (s : State) (v : VmId) : State := s.takeTurn.activate v

/-- What instance `v` and its steps can depend on: everything but the other instance's private state (R71). -/
def State.AgreeFor (v : VmId) (s1 s2 : State) : Prop :=
  s1.cfg = s2.cfg ∧ s1.q = s2.q ∧ s1.producer = s2.producer ∧ s1.consumer = s2.consumer ∧ s1.vm v = s2.vm v
    ∧ s1.out = s2.out ∧ s1.active = s2.active ∧ s1.sched = s2.sched ∧ s1.tick = s2.tick

/-- All values sent so far, by both instances. -/
def State.totalSent (s : State) : Nat := s.vmP.messagesSent + s.vmC.messagesSent

/-- All values received so far, by both instances. -/
def State.totalReceived (s : State) : Nat := s.vmP.messagesReceived + s.vmC.messagesReceived

/-- The value that the step from `s` to `t` pushed, if it pushed one: `x[0]` of the instance whose turn it was. -/
def pushedBy (s t : State) : List Word :=
  if t.totalSent = s.totalSent + 1 then [(s.vm t.active).reg 0] else []

/-- The value that the step from `s` to `t` popped, if it popped one: what `x[0]` now holds. -/
def poppedBy (s t : State) : List Word :=
  if t.totalReceived = s.totalReceived + 1 then [(t.vm t.active).reg 0] else []

/-- The state after `k` steps, if none of them stops. -/
def stateAfter : Nat → State → Option State
  | 0, s => some s
  | k + 1, s =>
    match step s with
    | .next t => stateAfter k t
    | .fault _ => none
    | .refused _ => none

/-- The values of the successful pushes of `k` steps, in order (R132). -/
def pushedIn : Nat → State → List Word
  | 0, _ => []
  | k + 1, s =>
    match step s with
    | .next t => pushedBy s t ++ pushedIn k t
    | .fault _ => []
    | .refused _ => []

/-- The values of the successful pops of `k` steps, in order (R132). -/
def poppedIn : Nat → State → List Word
  | 0, _ => []
  | k + 1, s =>
    match step s with
    | .next t => poppedBy s t ++ poppedIn k t
    | .fault _ => []
    | .refused _ => []

/-! ### Fair runs -/

/-- The state whose next turn is `a`. -/
def State.withTurn (s : State) (a : Turn) : State := { s with sched := [a] }

/-- An infinite run under a choice of turns: in step `k` the turn `σ k` is taken from state `r k`, and every step
answers the next state (R18: each interleaving is such a choice). -/
def IsRun (σ : Nat → Turn) (r : Nat → State) : Prop :=
  ∀ k, step ((r k).withTurn (σ k)) = .next (r (k + 1))

/-- Whether an agent has a step (R126, R150). Abort is an action of the host's, not an agent (R17). -/
def State.enabled (s : State) : Turn → Bool
  | .vm v => !(s.vm v).terminated (s.cfg.budget v)
  | .syncHead => decide (s.q.headC ≠ s.q.head)
  | .syncTail => decide (s.q.tailP ≠ s.q.tail)
  | .abort => false

/-- Weak fairness (R76, R126, R282, D20): an agent whose step stays enabled eventually takes it. -/
def WeaklyFair (σ : Nat → Turn) (r : Nat → State) : Prop :=
  ∀ (a : Turn) (k : Nat), ∃ m, k ≤ m ∧ (σ m = a ∨ (r m).enabled a = false)

end Sys2Proof.Machine
end

