-- ==== Sys2Proof/Certificates/Slice0/Obligations.lean ====
section
/-! DEFINITION. The statements for the provers. Each docstring names the rule of spec/ it formalises. -/

open Sys2Proof Sys2Proof.Machine

/-! ### Encoding (30_encoding.md) -/

/-- Decoding the encoding of a well-formed instruction gives it back, with every operand at every value (R93,
R94, R99). -/
def Obligations.DecodeEncodeAgree : Prop := ∀ i : Instr, i.wf = true → decode (encode i) = i

/-- R99: every 16-bit word decodes to exactly one instruction, well-formed: a TRAP word to one of OUT, HALT, SEND,
RECV exactly for their vectors, to an unrecognised vector otherwise; a word of one of the seven opcodes of R100 to
an unrecognised opcode, and no other word; and no word is refused. -/
def Obligations.DecodingIsTotal : Prop :=
  (∀ w : Word, (decode w).wf = true ∧ decodeTableWord 16 w.toNat = some (decode w)) ∧
  (∀ w : Word, wordBits w 15 12 = 15 →
    (decode w = .trapOut ↔ wordBits w 7 0 = 0x21) ∧ (decode w = .trapHalt ↔ wordBits w 7 0 = 0x25) ∧
    (decode w = .trapSend ↔ wordBits w 7 0 = 0x30) ∧ (decode w = .trapRecv ↔ wordBits w 7 0 = 0x31) ∧
    ((∃ v, decode w = .trapOther v) ↔ wordBits w 7 0 ∉ [0x21, 0x25, 0x30, 0x31])) ∧
  (∀ w : Word, decode w ∈ [.unrec6, .unrec7, .unrec8, .unrecA, .unrecB, .unrecD, .unrecE] ↔
    wordBits w 15 12 ∈ [0x6, 0x7, 0x8, 0xA, 0xB, 0xD, 0xE])

/-- R97: words that differ only in undecoded bits are the same instruction, and the encoder gives those bits
their canonical values. -/
def Obligations.UndecodedBitsIgnored : Prop :=
  (∀ w w' : Word, w &&& decodedMask (decode w) = w' &&& decodedMask (decode w) → decode w' = decode w) ∧
  (∀ w : Word, encode (decode w) &&& decodedMask (decode w) = w &&& decodedMask (decode w)) ∧
  (∀ dr sr1 sr2, wordBits (encode (.addReg dr sr1 sr2)) 4 3 = 0 ∧ wordBits (encode (.andReg dr sr1 sr2)) 4 3 = 0) ∧
  (∀ dr sr, wordBits (encode (.not dr sr)) 5 0 = 0b111111) ∧
  (∀ b, wordBits (encode (.jmp b)) 11 9 = 0 ∧ wordBits (encode (.jmp b)) 5 0 = 0) ∧
  (∀ off, wordBits (encode (.jsr off)) 11 11 = 1) ∧
  (∀ i, i ∈ [.trapOut, .trapHalt, .trapSend, .trapRecv] → wordBits (encode i) 11 8 = 0) ∧
  (∀ v, wordBits (encode (.trapOther v)) 11 8 = 0)

/-- R104: the table has one row for each of the 22 forms; a word is decoded to the form of a row it matches, and of
the rows it matches that one has the most bits set in its mask; undecoded bits are don't-care in every row. -/
def Obligations.LongestMaskRowWins : Prop :=
  opcodeTable.length = 22 ∧ (opcodeTable.map (·.row)).Nodup ∧
  (∀ w : Word, ∃ p ∈ opcodeTable, p.hit w = true ∧ (decode w).row = p.row ∧
    ∀ q ∈ opcodeTable, q.hit w = true → q ≠ p → q.maskBits < p.maskBits) ∧
  ∀ p ∈ opcodeTable, ∀ w w' : Word,
    w &&& decodedMask (decode w) = w' &&& decodedMask (decode w) → p.hit w = p.hit w'

/-- Words of 95_test_vectors.md, D-DEC, decode as it lists. -/
def Obligations.SampleWordsDecode : Prop :=
  decode 0x0402#16 = .br 0b010#3 2#9 ∧ decode 0x0FFF#16 = .br 0b111#3 0x1FF#9
    ∧ decode 0x1440#16 = .addReg 2 1 0 ∧ decode 0x1458#16 = .addReg 2 1 0 ∧ decode 0x127F#16 = .addImm 1 1 0x1F#5
    ∧ decode 0x5642#16 = .andReg 3 1 2 ∧ decode 0x5020#16 = .andImm 0 0 0#5 ∧ decode 0x923F#16 = .not 1 0
    ∧ decode 0x2405#16 = .ld 2 5#9 ∧ decode 0x37FE#16 = .st 3 0x1FE#9 ∧ decode 0x4002#16 = .jsr 2#11
    ∧ decode 0xC1C0#16 = .jmp 7 ∧ decode 0xF021#16 = .trapOut ∧ decode 0xFF25#16 = .trapHalt
    ∧ decode 0xF030#16 = .trapSend ∧ decode 0xF031#16 = .trapRecv ∧ decode 0xF020#16 = .trapOther 0x20#8
    ∧ decode 0xE1FF#16 = .unrecE

/-- R13: for a field of 5, 9 or 11 bits the low bits are the field, all higher bits equal its top bit, the word
is the formula's, and read as a signed number it is the field's signed value, in its range; `zext` pads with
zeros. -/
def Obligations.SignExtension : Prop :=
  ∀ k ∈ [5, 9, 11], ∀ f : BitVec k,
    (sext f).toNat % 2 ^ k = f.toNat ∧ (∀ i, k ≤ i → i < 16 → (sext f).getLsbD i = f.getLsbD (k - 1)) ∧
    (sext f).toNat = sextNat k f.toNat ∧ (sext f).toInt = f.toInt ∧
    -(2 ^ (k - 1) : Int) ≤ (sext f).toInt ∧ (sext f).toInt < 2 ^ (k - 1) ∧ (zext f).toNat = f.toNat

/-! ### Operate instructions (42_operate.md) -/

/-- R33: the condition register after ADD, AND, NOT, a completed RECV, and LD where it sets the flags, reads the
result: Z for 0, P for 0x0001 to 0x7FFF, N for 0x8000 to 0xFFFF. -/
def Obligations.CondFollowsResult : Prop :=
  (∀ v : Word, CondReads (condOf v) v) ∧
  ∀ (s t : State) (i : Instr), exec i s = .next t →
    (∀ dr sr1 sr2, i = .addReg dr sr1 sr2 ∨ i = .andReg dr sr1 sr2 → CondReads t.cur.cond (t.cur.reg dr)) ∧
    (∀ dr sr1 imm5, i = .addImm dr sr1 imm5 ∨ i = .andImm dr sr1 imm5 → CondReads t.cur.cond (t.cur.reg dr)) ∧
    (∀ dr sr, i = .not dr sr → CondReads t.cur.cond (t.cur.reg dr)) ∧
    (∀ dr off9, i = .ld dr off9 → s.cfg.ldSetsCC = true → CondReads t.cur.cond (t.cur.reg dr)) ∧
    (i = .trapRecv → t.cur.pend = .none → CondReads t.cur.cond (t.cur.reg 0))

/-- R171: ADD, register mode: its encoding, its sum modulo 2^16, its flags, its frame. -/
def Obligations.AddRegisterMode : Prop :=
  (∀ w : Word, wordBits w 15 12 = 1 → wordBits w 5 5 = 0 →
    decode w = .addReg (regAt w 11 9) (regAt w 8 6) (regAt w 2 0)) ∧
  ∀ (dr sr1 sr2 : RegId) (s : State), ∃ t, exec (.addReg dr sr1 sr2) s = .next t ∧
    s.Operates t dr (((s.cur.reg sr1).toNat + (s.cur.reg sr2).toNat) % 65536)

/-- R172: ADD, immediate mode. -/
def Obligations.AddImmediateMode : Prop :=
  (∀ w : Word, wordBits w 15 12 = 1 → wordBits w 5 5 = 1 →
    decode w = .addImm (regAt w 11 9) (regAt w 8 6) (BitVec.ofNat 5 (wordBits w 4 0))) ∧
  ∀ (dr sr1 : RegId) (imm5 : BitVec 5) (s : State), ∃ t, exec (.addImm dr sr1 imm5) s = .next t ∧
    s.Operates t dr (((s.cur.reg sr1).toNat + sextNat 5 imm5.toNat) % 65536)

/-- R173: AND, register mode. -/
def Obligations.AndRegisterMode : Prop :=
  (∀ w : Word, wordBits w 15 12 = 5 → wordBits w 5 5 = 0 →
    decode w = .andReg (regAt w 11 9) (regAt w 8 6) (regAt w 2 0)) ∧
  ∀ (dr sr1 sr2 : RegId) (s : State), ∃ t, exec (.andReg dr sr1 sr2) s = .next t ∧
    s.Operates t dr ((s.cur.reg sr1).toNat &&& (s.cur.reg sr2).toNat)

/-- R174: AND, immediate mode; the immediate is sign-extended before the AND. -/
def Obligations.AndImmediateMode : Prop :=
  (∀ w : Word, wordBits w 15 12 = 5 → wordBits w 5 5 = 1 →
    decode w = .andImm (regAt w 11 9) (regAt w 8 6) (BitVec.ofNat 5 (wordBits w 4 0))) ∧
  ∀ (dr sr1 : RegId) (imm5 : BitVec 5) (s : State), ∃ t, exec (.andImm dr sr1 imm5) s = .next t ∧
    s.Operates t dr ((s.cur.reg sr1).toNat &&& sextNat 5 imm5.toNat)

/-- R175: NOT gives `0xFFFF - x[SR]`. -/
def Obligations.NotComplements : Prop :=
  (∀ w : Word, wordBits w 15 12 = 9 → decode w = .not (regAt w 11 9) (regAt w 8 6)) ∧
  ∀ (dr sr : RegId) (s : State), ∃ t, exec (.not dr sr) s = .next t ∧
    s.Operates t dr (0xFFFF - (s.cur.reg sr).toNat)

/-! ### Load and store (43_load_store.md) -/

/-- R181 with R180's effective address: LD reads the cell at `pc + sext_9(off9)` modulo 2^16, and sets `COND` from
the loaded value exactly where `LD_SETS_CC`. -/
def Obligations.LoadIsPcRelative : Prop :=
  (∀ w : Word, wordBits w 15 12 = 2 → decode w = .ld (regAt w 11 9) (BitVec.ofNat 9 (wordBits w 8 0))) ∧
  ∀ (dr : RegId) (off9 : BitVec 9) (s : State), ∃ t, exec (.ld dr off9) s = .next t ∧
    t.cur.reg dr = s.cur.mem.read (BitVec.ofNat 16 ((s.cur.pc.toNat + sextNat 9 off9.toNat) % 65536)) ∧
    (s.cfg.ldSetsCC = true → CondReads t.cur.cond (t.cur.reg dr)) ∧
    (s.cfg.ldSetsCC = false → t.cur.cond = s.cur.cond) ∧
    s.cur.RegsKept t.cur [dr] ∧ t.cur.pc = s.cur.pc ∧ s.cur.MemKept t.cur ∧ s.cur.Counted t.cur ∧
    s.cur.RunKept t.cur ∧ s.OutsideKept t

/-- R182 with R180's effective address: ST writes the whole register to the cell at `pc + sext_9(off9)` modulo
2^16 and to no other; no register and no flag changes. The premise on memory is the invariant of
`StepKeepsInvariant`. -/
def Obligations.StoreIsPcRelative : Prop :=
  (∀ w : Word, wordBits w 15 12 = 3 → decode w = .st (regAt w 11 9) (BitVec.ofNat 9 (wordBits w 8 0))) ∧
  ∀ (sr : RegId) (off9 : BitVec 9) (s : State), ∃ t, exec (.st sr off9) s = .next t ∧
    (s.cur.mem.wf = true →
      t.cur.mem.read (BitVec.ofNat 16 ((s.cur.pc.toNat + sextNat 9 off9.toNat) % 65536)) = s.cur.reg sr ∧
      ∀ a : Word, a.toNat ≠ (s.cur.pc.toNat + sextNat 9 off9.toNat) % 65536 →
        t.cur.mem.read a = s.cur.mem.read a) ∧
    s.cur.RegsKept t.cur [] ∧ t.cur.cond = s.cur.cond ∧ t.cur.pc = s.cur.pc ∧ s.cur.Counted t.cur ∧
    s.cur.RunKept t.cur ∧ s.OutsideKept t

/-- R81: the fetch after a ST reads the stored word where the ST wrote to the cell at the pc, and what it would have
read anyhow where it did not. -/
def Obligations.FetchSeesStore : Prop :=
  ∀ (sr : RegId) (off9 : BitVec 9) (s : State), s.cur.mem.wf = true →
    ∃ t, exec (.st sr off9) s = .next t ∧
      t.fetchWord = if sextNat 9 off9.toNat = 0 then s.cur.reg sr else s.fetchWord

/-! ### Control transfer (44_control.md) -/

/-- R191: BR is taken by R191's outcome table: always for the masks 000 and 111, else if a masked bit matches
`COND`; taken, the pc is `pc + sext_9(off9)` modulo 2^16. Nothing else changes. -/
def Obligations.BranchOutcomes : Prop :=
  (∀ w : Word, wordBits w 15 12 = 0 →
    decode w = .br (BitVec.ofNat 3 (wordBits w 11 9)) (BitVec.ofNat 9 (wordBits w 8 0))) ∧
  ∀ (mask : BitVec 3) (off9 : BitVec 9) (s : State), ∃ t, exec (.br mask off9) s = .next t ∧
    s.Transfers t
      (if mask.toNat ∈ takenMasks s.cur.cond then (s.cur.pc.toNat + sextNat 9 off9.toNat) % 65536 else s.cur.pc.toNat) []

/-- R103: a BR word of mask 000 branches: the pc is left at the next instruction exactly if the offset is 0, so the
all-zero word has the effect of a no-op. -/
def Obligations.MaskZeroBranches : Prop :=
  (∀ w : Word, wordBits w 15 9 = 0 → decode w = .br 0#3 (BitVec.ofNat 9 (wordBits w 8 0))) ∧
  decode 0x0000#16 = .br 0#3 0#9 ∧
  ∀ (off9 : BitVec 9) (s : State), ∃ t, exec (.br 0#3 off9) s = .next t ∧
    (t.cur.pc = s.cur.pc ↔ off9 = 0#9) ∧ (off9 = 0#9 → s.OnlyCounted t)

/-- R192: JSR leaves the return address in `x[7]` and goes to `pc + sext_11(off11)` modulo 2^16; bit 11 of the word
is not looked at (R98). -/
def Obligations.JsrLinksAndJumps : Prop :=
  (∀ w : Word, wordBits w 15 12 = 4 → decode w = .jsr (BitVec.ofNat 11 (wordBits w 10 0))) ∧
  ∀ (off11 : BitVec 11) (s : State), ∃ t, exec (.jsr off11) s = .next t ∧ t.cur.reg 7 = s.cur.pc ∧
    s.Transfers t ((s.cur.pc.toNat + sextNat 11 off11.toNat) % 65536) [7]

/-- R193: JMP goes to the value of `x[BaseR]`; no register is written. -/
def Obligations.JmpJumps : Prop :=
  (∀ w : Word, wordBits w 15 12 = 12 → decode w = .jmp (regAt w 8 6)) ∧
  ∀ (baseR : RegId) (s : State), ∃ t, exec (.jmp baseR) s = .next t ∧
    s.Transfers t (s.cur.reg baseR).toNat []

/-! ### TRAP (45_trap.md) -/

/-- R204: OUT appends the low byte of `x[0]` to the output stream and changes nothing else but what R201 leaves to
`TRAP_SAVES_R7`. -/
def Obligations.OutEmitsLowByte : Prop :=
  (∀ w : Word, wordBits w 15 12 = 15 → wordBits w 7 0 = 0x21 → decode w = .trapOut) ∧
  ∀ s : State, ∃ t, exec .trapOut s = .next t ∧
    t.out = s.out ++ [BitVec.ofNat 8 ((s.cur.reg 0).toNat % 256)] ∧ s.cur.RegsKept t.cur [7] ∧ s.TrapLinks t ∧
    t.cur.cond = s.cur.cond ∧ t.cur.pc = s.cur.pc ∧ s.cur.MemKept t.cur ∧ s.cur.Counted t.cur ∧
    s.cur.RunKept t.cur ∧ s.RestKept t ∧ s.RingKept t

/-- R205: HALT clears `running` and is counted; the pc keeps the address after it, and nothing else changes but what
R201 leaves to `TRAP_SAVES_R7`; the instance has then terminated unless a spin is pending. -/
def Obligations.HaltClearsRunning : Prop :=
  (∀ w : Word, wordBits w 15 12 = 15 → wordBits w 7 0 = 0x25 → decode w = .trapHalt) ∧
  ∀ s : State, ∃ t, exec .trapHalt s = .next t ∧ t.cur.running = false ∧
    (s.cur.pend = .none → t.cur.terminated (t.cfg.budget t.active) = true) ∧
    s.cur.RegsKept t.cur [7] ∧ s.TrapLinks t ∧ t.cur.pend = s.cur.pend ∧
    t.cur.cond = s.cur.cond ∧ t.cur.pc = s.cur.pc ∧ s.cur.MemKept t.cur ∧ s.cur.Counted t.cur ∧ s.OutsideKept t

/-- R206: SEND. Fetched, or pending from an earlier step, one attempt of `push(x[0])` is made: where room is seen the
SEND completes, where the ring is seen full it stays pending and no counter moves, whatever the budget; a second
pusher is a violation. Three points are the model's choice: that the fetching step makes the first attempt (log
entry 11, which R206 and D17 allow), that an instance which pops as well sees the index itself, at its second role
too (log entry 13), and who counts as a second pusher (log entry 12). -/
def Obligations.SendAttempts : Prop :=
  (∀ w : Word, wordBits w 15 12 = 15 → wordBits w 7 0 = 0x30 → decode w = .trapSend) ∧
  (∀ s : State, s.mayPush → (s.q.head + 1) % s.cfg.capacity ≠ s.seenTail →
    ∃ t, exec .trapSend s = .next t ∧ s.Sends t ∧ s.cur.RegsKept t.cur [7] ∧ s.TrapLinks t) ∧
  (∀ s : State, s.mayPush → (s.q.head + 1) % s.cfg.capacity = s.seenTail →
    ∃ t, exec .trapSend s = .next t ∧ s.SendWaits t ∧ s.cur.RegsKept t.cur [7] ∧ s.TrapLinks t) ∧
  (∀ s : State, ¬ s.mayPush → exec .trapSend s = .fault (.spscViolation s.active .push)) ∧
  ∀ (s : State) (v : VmId), s.turn = .vm v → (s.vm v).pend = .send →
    ((s.turnOf v).mayPush → (s.q.head + 1) % s.cfg.capacity ≠ (s.turnOf v).seenTail →
      ∃ t, step s = .next t ∧ (s.turnOf v).Sends t ∧ (s.turnOf v).cur.RegsKept t.cur []) ∧
    ((s.turnOf v).mayPush → (s.q.head + 1) % s.cfg.capacity = (s.turnOf v).seenTail →
      ∃ t, step s = .next t ∧ (s.turnOf v).SendWaits t ∧ (s.turnOf v).cur.RegsKept t.cur []) ∧
    (¬ (s.turnOf v).mayPush → step s = .fault (.spscViolation v .push))

/-- R207: RECV. Fetched, or pending from an earlier step, one attempt of `pop()` is made: where an item is seen its
value goes to `x[0]`, `COND` reads it and the RECV completes; where the ring is seen empty only
`receiveSpinIterations` goes up and it stays pending, whatever the budget; a second popper is a violation. That
the slot has a value is part of the invariant (R133). Three points are the model's choice: that the fetching step
makes the first attempt, and counts a spin if it fails (log entry 11, which D17 allows), that an instance which
pushes as well sees the index itself, at its second role too (log entry 13), and who counts as a second popper (log
entry 12). -/
def Obligations.RecvAttempts : Prop :=
  (∀ w : Word, wordBits w 15 12 = 15 → wordBits w 7 0 = 0x31 → decode w = .trapRecv) ∧
  (∀ (s : State) (x : Word), s.mayPop → s.seenHead ≠ s.q.tail → s.q.slot s.q.tail = some x →
    ∃ t, exec .trapRecv s = .next t ∧ s.Receives t x ∧ s.cur.RegsKept t.cur [0, 7] ∧ s.TrapLinks t) ∧
  (∀ s : State, s.mayPop → s.seenHead = s.q.tail →
    ∃ t, exec .trapRecv s = .next t ∧ s.RecvWaits t ∧ s.cur.RegsKept t.cur [7] ∧ s.TrapLinks t) ∧
  (∀ s : State, ¬ s.mayPop → exec .trapRecv s = .fault (.spscViolation s.active .pop)) ∧
  ∀ (s : State) (v : VmId), s.turn = .vm v → (s.vm v).pend = .recv →
    (∀ x : Word, (s.turnOf v).mayPop → (s.turnOf v).seenHead ≠ s.q.tail → s.q.slot s.q.tail = some x →
      ∃ t, step s = .next t ∧ (s.turnOf v).Receives t x ∧ (s.turnOf v).cur.RegsKept t.cur [0]) ∧
    ((s.turnOf v).mayPop → (s.turnOf v).seenHead = s.q.tail →
      ∃ t, step s = .next t ∧ (s.turnOf v).RecvWaits t ∧ (s.turnOf v).cur.RegsKept t.cur []) ∧
    (¬ (s.turnOf v).mayPop → step s = .fault (.spscViolation v .pop))

/-- R212, where `UNRECOGNIZED` is `nop` as R212 has it: a TRAP word of any other vector is counted and has no other
effect. That it leaves `x[7]` alone where `TRAP_SAVES_R7` is true is the model's choice (log entry 9). -/
def Obligations.UnrecognisedVectorIsNop : Prop :=
  (∀ w : Word, wordBits w 15 12 = 15 → wordBits w 7 0 ∉ [0x21, 0x25, 0x30, 0x31] →
    decode w = .trapOther (BitVec.ofNat 8 (wordBits w 7 0))) ∧
  ∀ (vect8 : BitVec 8) (s : State), s.cfg.unrecognized = .nop →
    ∃ t, exec (.trapOther vect8) s = .next t ∧ s.OnlyCounted t

/-! ### Unrecognised opcodes (46_unrecognized.md) -/

/-- R220 to R227, where `UNRECOGNIZED` is `nop` as R220 has it: a word of one of the seven opcodes is counted and has
no other effect, whatever its other bits. -/
def Obligations.UnrecognisedOpcodeIsNop : Prop :=
  (∀ w : Word,
    (wordBits w 15 12 = 0x6 → decode w = .unrec6) ∧ (wordBits w 15 12 = 0x7 → decode w = .unrec7) ∧
    (wordBits w 15 12 = 0x8 → decode w = .unrec8) ∧ (wordBits w 15 12 = 0xA → decode w = .unrecA) ∧
    (wordBits w 15 12 = 0xB → decode w = .unrecB) ∧ (wordBits w 15 12 = 0xD → decode w = .unrecD) ∧
    (wordBits w 15 12 = 0xE → decode w = .unrecE)) ∧
  ∀ i ∈ [Instr.unrec6, .unrec7, .unrec8, .unrecA, .unrecB, .unrecD, .unrecE], ∀ s : State, s.cfg.unrecognized = .nop →
    ∃ t, exec i s = .next t ∧ s.OnlyCounted t

/-- R42, U1, U2: where the parameter `UNRECOGNIZED` is `refuse`, a word that no instruction claims is refused when it is
executed. That the other value is a refusal at that moment is the model's choice (log entry 10). -/
def Obligations.RefuseParameterRefuses : Prop :=
  (∀ (vect8 : BitVec 8) (s : State), s.cfg.unrecognized = .refuse →
    exec (.trapOther vect8) s = .refused .unrecognisedWord) ∧
  (∀ i ∈ [Instr.unrec6, .unrec7, .unrec8, .unrecA, .unrecB, .unrecD, .unrecE], ∀ s : State,
    s.cfg.unrecognized = .refuse → exec i s = .refused .unrecognisedWord) ∧
  ∀ (s : State) (v : VmId), s.turn = .vm v → (s.vm v).pend = .none → (s.vm v).running = true →
    (s.vm v).icount < s.cfg.budget v → s.cfg.unrecognized = .refuse →
    unclaimed (decode ((s.vm v).mem.read (s.vm v).pc)) = true → step s = .refused .unrecognisedWord

/-! ### The loop (41_cycle.md) -/

/-- R150 (a) to R153: when it is the turn of a running instance with no spin pending and budget left, the step
executes the instruction that the word at its pc decodes to, in the state in which its pc is the next address
modulo 2^16, the turn is taken, and all else is as before. -/
def Obligations.StepRunsDecodedInstruction : Prop :=
  ∀ (s : State) (v : VmId) (i : Instr), s.turn = .vm v → (s.vm v).pend = .none → (s.vm v).running = true →
    (s.vm v).icount < s.cfg.budget v → decode ((s.vm v).mem.read (s.vm v).pc) = i →
    ∃ s', step s = exec i s' ∧ s'.active = v ∧
      s'.vm v = { s.vm v with pc := BitVec.ofNat 16 (((s.vm v).pc.toNat + 1) % 65536) } ∧
      s'.vm v.other = s.vm v.other ∧ s'.cfg = s.cfg ∧ s'.q = s.q ∧ s'.producer = s.producer ∧
      s'.consumer = s.consumer ∧ s'.out = s.out ∧ s'.sched = s.sched.tail ∧ s'.tick = s.tick + 1

/-- R155, R156, R43: an instance that has halted or used up its budget, with no spin pending, has terminated: whatever
the turn is, nothing of it changes any more. That its own turn is a step of the model, which changes nothing at all
but the turns, is the model's choice (log entry 17): by R156 it has no step. -/
def Obligations.TerminatedInstanceIsFrozen : Prop :=
  ∀ (s : State) (v : VmId), (s.vm v).pend = .none → ((s.vm v).running = false ∨ s.cfg.budget v ≤ (s.vm v).icount) →
    (∀ t, step s = .next t → t.vm v = s.vm v ∧ (t.vm v).terminated (t.cfg.budget v) = true) ∧
    (s.turn = .vm v → ∃ t, step s = .next t ∧ (∀ u, t.vm u = s.vm u) ∧ t.q = s.q ∧ t.out = s.out ∧
      t.producer = s.producer ∧ t.consumer = s.consumer ∧ t.cfg = s.cfg ∧ t.sched = s.sched.tail ∧
      t.tick = s.tick + 1)

/-- R154: every iteration is counted exactly once: in the step of the instruction, and for SEND and RECV in the step
of the attempt that succeeds, not before. -/
def Obligations.EveryIterationCountsOnce : Prop :=
  (∀ (s t : State) (i : Instr), exec i s = .next t → i ≠ .trapSend → i ≠ .trapRecv →
    t.cur.icount = s.cur.icount + 1) ∧
  (∀ (s t : State) (i : Instr), exec i s = .next t → i = .trapSend ∨ i = .trapRecv →
    t.cur.icount = s.cur.icount + (if t.cur.pend = .none then 1 else 0)) ∧
  (∀ (s t : State) (v : VmId), s.turn = .vm v → (s.vm v).pend ≠ .none → step s = .next t →
    (t.vm v).icount = (s.vm v).icount + (if (t.vm v).pend = .none then 1 else 0))

/-- R156: the two kinds of stop can be told apart in the final state: a HALT stop has `running = false`, a budget stop
has `running = true` and `icount = BUDGET`; a HALT that is the last budgeted instruction is a HALT stop. -/
def Obligations.StopKindsAreDistinguishable : Prop :=
  ∀ (x : Vm) (budget : Nat), x.Inv budget → x.terminated budget = true →
    (x.stopKind budget = some .halt ↔ x.running = false) ∧
    (x.stopKind budget = some .budget ↔ x.running = true ∧ x.icount = budget)

/-! ### What a step leaves alone (10_state.md, 20_memory.md) -/

/-- R30's table (and D5's `x[7]`): an instruction writes no general register but those the table gives it, and none of
the other instance's. That under `TRAP_SAVES_R7` the four recognised services may write `x[7]` and an unrecognised
vector may not is the model's choice (log entry 9). -/
def Obligations.OnlyTabledRegistersWritten : Prop :=
  ∀ (i : Instr) (s t : State), exec i s = .next t →
    s.cur.RegsKept t.cur (writesRegs s.cfg i) ∧ t.active = s.active ∧
    (t.vm s.active.other).regs = (s.vm s.active.other).regs

/-- R32: `COND` is written only by ADD, AND, NOT, LD (under `LD_SETS_CC`) and RECV, and of these RECV only when it
completes. -/
def Obligations.OnlyTabledInstructionsWriteCond : Prop :=
  ∀ (i : Instr) (s t : State), exec i s = .next t →
    (writesCond s.cfg i = false → t.cur.cond = s.cur.cond) ∧
    (i = .trapRecv → t.cur.pend = .recv → t.cur.cond = s.cur.cond) ∧
    (t.vm s.active.other).cond = (s.vm s.active.other).cond

/-- R31: between the fetch increment and the next fetch the pc is written only by a taken BR, JSR and JMP. -/
def Obligations.OnlyTransfersWritePc : Prop :=
  ∀ (i : Instr) (s t : State), exec i s = .next t → t.cur.pc ≠ s.cur.pc →
    (∃ mask off9, i = .br mask off9 ∧ branchTaken mask s.cur.cond = true) ∨ (∃ off11, i = .jsr off11) ∨
    (∃ baseR, i = .jmp baseR)

/-- R61, R71: a step changes a cell of an instance's memory only if that instance's turn runs a ST, and then only the
cell at the ST's effective address. -/
def Obligations.OnlyStoreChangesMemory : Prop :=
  ∀ (s t : State) (v : VmId) (a : Word), (s.vm v).mem.wf = true → step s = .next t →
    (t.vm v).mem.read a ≠ (s.vm v).mem.read a →
    s.turn = .vm v ∧ (s.vm v).pend = .none ∧
    ∃ sr off9, decode ((s.vm v).mem.read (s.vm v).pc) = .st sr off9 ∧
      a = pcRel9 (nextAddr (s.vm v).pc) off9 ∧ (t.vm v).mem.read a = (s.vm v).reg sr

/-- R35: `running` starts true, and a step clears it only by the HALT trap of the instance whose turn it is; nothing
sets it. -/
def Obligations.OnlyHaltClearsRunning : Prop :=
  (State.reset.vmP.running = true ∧ State.reset.vmC.running = true) ∧
  (∀ l s, State.boot l = .next s → s.vmP.running = true ∧ s.vmC.running = true) ∧
  ∀ (s t : State) (v : VmId), step s = .next t → (t.vm v).running ≠ (s.vm v).running →
    (s.vm v).running = true ∧ s.turn = .vm v ∧ (s.vm v).pend = .none ∧
    decode ((s.vm v).mem.read (s.vm v).pc) = .trapHalt

/-- R39: the output stream only grows, by one byte at a step, and only by an OUT: the low byte of `x[0]` of the
instance whose turn it is. -/
def Obligations.OnlyOutEmits : Prop :=
  ∀ s t : State, step s = .next t → t.out ≠ s.out →
    ∃ v, s.turn = .vm v ∧ (s.vm v).pend = .none ∧
      decode ((s.vm v).mem.read (s.vm v).pc) = .trapOut ∧
      t.out = s.out ++ [BitVec.ofNat 8 (((s.vm v).reg 0).toNat % 256)]

/-- R130 (a), R23, R24, R26: `head` and the slots are written only in a step that completes a SEND, `tail` only in one
that completes a RECV; `head` and `tail` move by one; a view is written by its Sync agent. That it is written, too,
by an attempt of an instance that both pushes and pops, in the same step, is R135 as the model does it: the model's
choice (log entry 13). -/
def Obligations.IndicesMoveOnlyByTheirOwners : Prop :=
  ∀ s t : State, step s = .next t →
    (t.q.head ≠ s.q.head ∨ t.q.buffer ≠ s.q.buffer →
      t.totalSent = s.totalSent + 1 ∧ t.q.head = (s.q.head + 1) % s.cfg.capacity ∧
      t.producer = some t.active ∧ s.turn = .vm t.active) ∧
    (t.q.tail ≠ s.q.tail →
      t.totalReceived = s.totalReceived + 1 ∧ t.q.tail = (s.q.tail + 1) % s.cfg.capacity ∧
      t.consumer = some t.active ∧ s.turn = .vm t.active) ∧
    (t.q.tailP ≠ s.q.tailP →
      (s.turn = .syncTail ∧ t.q.tailP = (s.q.tailP + 1) % s.cfg.capacity) ∨
      (t.producer = some t.active ∧ t.consumer = some t.active ∧ s.turn = .vm t.active ∧ t.q.tailP = s.q.tail)) ∧
    (t.q.headC ≠ s.q.headC →
      (s.turn = .syncHead ∧ t.q.headC = (s.q.headC + 1) % s.cfg.capacity) ∨
      (t.producer = some t.active ∧ t.consumer = some t.active ∧ s.turn = .vm t.active ∧ t.q.headC = s.q.head))

/-- R36: the four counters only grow, by at most one at a step, and only those of the instance whose turn it is; a step
that counts a message counts an instruction, and a counted spin counts nothing else. -/
def Obligations.CountersOnlyGrow : Prop :=
  ∀ (s t : State) (v : VmId), step s = .next t →
    (s.vm v).icount ≤ (t.vm v).icount ∧ (t.vm v).icount ≤ (s.vm v).icount + 1 ∧
    (s.vm v).messagesSent ≤ (t.vm v).messagesSent ∧ (s.vm v).messagesReceived ≤ (t.vm v).messagesReceived ∧
    (t.vm v).messagesSent + (t.vm v).messagesReceived + (s.vm v).icount
      ≤ (s.vm v).messagesSent + (s.vm v).messagesReceived + (t.vm v).icount ∧
    (s.vm v).receiveSpinIterations ≤ (t.vm v).receiveSpinIterations ∧
    (t.vm v).receiveSpinIterations + (t.vm v).icount ≤ (s.vm v).receiveSpinIterations + (s.vm v).icount + 1 ∧
    (s.turn ≠ .vm v → (t.vm v).icount = (s.vm v).icount ∧ (t.vm v).messagesSent = (s.vm v).messagesSent ∧
      (t.vm v).messagesReceived = (s.vm v).messagesReceived ∧
      (t.vm v).receiveSpinIterations = (s.vm v).receiveSpinIterations)

/-- R10: no step changes the configuration. -/
def Obligations.StepKeepsConfig : Prop := ∀ s t : State, step s = .next t → t.cfg = s.cfg

/-- R71, R239, R242: an instance can neither read nor write the other's private state: its turns in two machines that
differ only there have the same outcome but for that state, which they leave as it is. -/
def Obligations.InstancesAreIsolated : Prop :=
  ∀ (v : VmId) (s1 s2 : State), State.AgreeFor v s1 s2 → s1.turn = .vm v →
    (∃ t1 t2, step s1 = .next t1 ∧ step s2 = .next t2 ∧ State.AgreeFor v t1 t2 ∧
      t1.vm v.other = s1.vm v.other ∧ t2.vm v.other = s2.vm v.other) ∨
    (∃ f, step s1 = .fault f ∧ step s2 = .fault f) ∨ (∃ r, step s1 = .refused r ∧ step s2 = .refused r)

/-! ### The ring buffer (40_ring_buffer.md) -/

/-- R126: a turn of `SyncTail` advances a view that lags by one, and of `SyncHead` likewise, and nothing else of the
machine changes. That with a view that is current the turn is a step of the model, which changes nothing but the
turns, is the model's choice (log entry 17): by R126 that agent has no step then. -/
def Obligations.SyncAdvancesLaggingView : Prop :=
  ∀ s : State,
    (s.turn = .syncTail → ∃ t, step s = .next t ∧
      t.q = { s.q with tailP := if s.q.tailP = s.q.tail then s.q.tail else (s.q.tailP + 1) % s.cfg.capacity } ∧
      (∀ v, t.vm v = s.vm v) ∧ t.cfg = s.cfg ∧ t.out = s.out ∧ t.producer = s.producer ∧
      t.consumer = s.consumer ∧ t.sched = s.sched.tail) ∧
    (s.turn = .syncHead → ∃ t, step s = .next t ∧
      t.q = { s.q with headC := if s.q.headC = s.q.head then s.q.head else (s.q.headC + 1) % s.cfg.capacity } ∧
      (∀ v, t.vm v = s.vm v) ∧ t.cfg = s.cfg ∧ t.out = s.out ∧ t.producer = s.producer ∧
      t.consumer = s.consumer ∧ t.sched = s.sched.tail)

/-- R76, R126, bounded: after as many turns of its Sync agent as there are usable slots a view has caught up with its
index, and nothing else of the ring has changed. That a turn of a Sync agent whose view is current already is a step
of the model, which changes nothing but the turns, is the model's choice (log entry 17): by R126 that agent has no
step then. -/
def Obligations.SyncTurnsCatchUp : Prop :=
  ∀ (s : State) (k : Nat) (rest : List Turn), s.q.Inv s.cfg.capacity → s.cfg.capacity ≤ k + 1 →
    (s.sched = List.replicate k .syncHead ++ rest →
      ∃ t, stateAfter k s = some t ∧ t.q = { s.q with headC := s.q.head } ∧ t.sched = rest ∧
        ∀ v, t.vm v = s.vm v) ∧
    (s.sched = List.replicate k .syncTail ++ rest →
      ∃ t, stateAfter k s = some t ∧ t.q = { s.q with tailP := s.q.tail } ∧ t.sched = rest ∧
        ∀ v, t.vm v = s.vm v)

/-- R132: the operations act on the outstanding items as on a queue: a successful push adds its value at the end, a
successful pop takes the value at the front, a Sync step changes nothing. -/
def Obligations.RingActsAsQueue : Prop :=
  ∀ (n : Nat) (q : Ring), q.Inv n →
    (∀ (v : Word) (q' : Ring), q.push n v = some q' → q'.contents n = q.contents n ++ [v]) ∧
    (∀ (v : Word) (q' : Ring), q.pop n = .value v q' → q.contents n = v :: q'.contents n) ∧
    (q.syncHead n).contents n = q.contents n ∧ (q.syncTail n).contents n = q.contents n ∧
    (q.contents n).length = q.count n ∧ (q.contents n).length < n

/-- R131, R134: push never succeeds with `N-1` items outstanding and pop never with none; with a current view push
fails exactly at `N-1` and pop exactly at none; and under the invariant pop never finds an unwritten slot (R133). -/
def Obligations.FullAndEmptyAreExact : Prop :=
  ∀ (n : Nat) (q : Ring) (v : Word), q.Inv n →
    (q.count n = n - 1 → q.push n v = none) ∧ (q.count n = 0 → q.pop n = .empty) ∧
    (q.tailP = q.tail → (q.push n v = none ↔ q.count n = n - 1)) ∧
    (q.headC = q.head → (q.pop n = .empty ↔ q.count n = 0)) ∧ q.pop n ≠ .unwritten

/-- R135, R77: an instance that both pushes and pops completes a SEND exactly if fewer than `N-1` items are
outstanding, and a RECV exactly if one is. That its views are current in the fetching step already is the model's
choice (log entries 11 and 13). -/
def Obligations.SingleAgentIsExact : Prop :=
  ∀ s : State, s.q.Inv s.cfg.capacity → s.producer = some s.active → s.consumer = some s.active →
    (∃ t, exec .trapSend s = .next t ∧ (t.cur.pend = .none ↔ s.q.count s.cfg.capacity < s.cfg.capacity - 1)) ∧
    (∃ t, exec .trapRecv s = .next t ∧ (t.cur.pend = .none ↔ 0 < s.q.count s.cfg.capacity))

/-- D25: the instance that performs `push` is the producer from then on, and the one that performs `pop` the consumer;
nothing else gives a role. That an attempt that fails takes the role too, and that the fetching step makes an
attempt, is the model's choice (log entries 12 and 11). -/
def Obligations.AttemptTakesTheRole : Prop :=
  (∀ s t : State, exec .trapSend s = .next t → t.producer = some s.active ∧ t.consumer = s.consumer) ∧
  (∀ s t : State, exec .trapRecv s = .next t → t.consumer = some s.active ∧ t.producer = s.producer) ∧
  (∀ (s t : State) (i : Instr), i ≠ .trapSend → i ≠ .trapRecv → exec i s = .next t →
    t.producer = s.producer ∧ t.consumer = s.consumer) ∧
  ∀ (s t : State) (v : VmId), s.turn = .vm v → step s = .next t →
    ((s.vm v).pend = .send → t.producer = some v ∧ t.consumer = s.consumer) ∧
    ((s.vm v).pend = .recv → t.consumer = some v ∧ t.producer = s.producer)

/-- R127, R233: once an instance has performed `push`, every SEND and every pending attempt of the other is the
outcome `SpscViolation`; likewise for `pop`. That a fetched SEND or RECV is one in its fetching step, and that a
failed attempt has taken the role, is the model's choice (log entries 11 and 12). -/
def Obligations.SecondAgentIsViolation : Prop :=
  ∀ (s : State) (v : VmId), s.turn = .vm v →
    (s.producer = some v.other → (s.vm v).pend = .send ∨
        ((s.vm v).pend = .none ∧ (s.vm v).running = true ∧ (s.vm v).icount < s.cfg.budget v ∧
          decode ((s.vm v).mem.read (s.vm v).pc) = .trapSend) →
      step s = .fault (.spscViolation v .push)) ∧
    (s.consumer = some v.other → (s.vm v).pend = .recv ∨
        ((s.vm v).pend = .none ∧ (s.vm v).running = true ∧ (s.vm v).icount < s.cfg.budget v ∧
          decode ((s.vm v).mem.read (s.vm v).pc) = .trapRecv) →
      step s = .fault (.spscViolation v .pop))

/-! ### Whole-machine properties -/

/-- Every step keeps the invariant: the ring's of R130, canonical memories, budgets, and that every value sent is
received or outstanding. -/
def Obligations.StepKeepsInvariant : Prop := ∀ s t : State, s.Inv → step s = .next t → t.Inv

/-- The state after reset meets the invariant, and holds what R44 fixes: empty indices and views, unwritten slots,
`running` true, counters 0, no spin, no output. -/
def Obligations.ResetMeetsInvariant : Prop :=
  State.reset.Inv ∧ State.reset.q.head = 0 ∧ State.reset.q.tail = 0 ∧ State.reset.q.tailP = 0 ∧
    State.reset.q.headC = 0 ∧ (∀ i, State.reset.q.slot i = none) ∧ State.reset.out = [] ∧
    ∀ v, (State.reset.vm v).running = true ∧ (State.reset.vm v).pend = .none ∧ (State.reset.vm v).icount = 0 ∧
      (State.reset.vm v).messagesSent = 0 ∧ (State.reset.vm v).messagesReceived = 0 ∧
      (State.reset.vm v).receiveSpinIterations = 0

/-- R230, R233: from a state of the invariant a step stops only by the host's Abort or by a violation of the SPSC
obligation by the instance whose turn it is, another having the role already; and it refuses only an
unrecognised word that the instance whose turn it is has fetched, where `UNRECOGNIZED` is `refuse` (the model's form
of that value: log entry 10). -/
def Obligations.OnlyAbortAndViolationStop : Prop :=
  ∀ s : State, s.Inv →
    (∀ r, step s = .refused r → r = .unrecognisedWord ∧ s.cfg.unrecognized = .refuse ∧
      ∃ v, s.turn = .vm v ∧ (s.vm v).pend = .none ∧
        unclaimed (decode ((s.vm v).mem.read (s.vm v).pc)) = true) ∧
    ∀ f, step s = .fault f →
      (f = .abort ∧ s.turn = .abort) ∨
      (∃ v, s.turn = .vm v ∧ s.producer = some v.other ∧ f = .spscViolation v .push) ∨
      (∃ v, s.turn = .vm v ∧ s.consumer = some v.other ∧ f = .spscViolation v .pop)

/-- R132, R78, over whole runs: what was outstanding at the start followed by all values pushed is all values popped
followed by what is outstanding at the end; nothing is lost, duplicated or reordered. -/
def Obligations.RunDeliversInOrder : Prop :=
  ∀ (k : Nat) (s t : State), s.Inv → stateAfter k s = some t →
    s.q.contents s.cfg.capacity ++ pushedIn k s = poppedIn k s ++ t.q.contents t.cfg.capacity

/-- R208: where the roles are respected the consumer's messages never exceed the producer's, and lag by at most the
`N-1` usable slots. -/
def Obligations.ReceiverLagsByUsableSlots : Prop :=
  ∀ s : State, s.Inv → s.producer ≠ some .C → s.consumer ≠ some .P →
    s.vmC.messagesReceived ≤ s.vmP.messagesSent ∧
    s.vmP.messagesSent ≤ s.vmC.messagesReceived + s.cfg.capacity - 1

/-- R76, R207, R282: in a weakly fair run a pending RECV completes if an item is outstanding. -/
def Obligations.FairRunCompletesReceive : Prop :=
  ∀ (σ : Nat → Turn) (r : Nat → State) (k : Nat) (v : VmId), IsRun σ r → WeaklyFair σ r → (r k).Inv → ((r k).vm v).pend = .recv →
    0 < (r k).q.count (r k).cfg.capacity →
    ∃ m, k < m ∧ ((r m).vm v).pend = .none ∧
      ((r m).vm v).messagesReceived = ((r k).vm v).messagesReceived + 1

/-- R76, R206, R282: in a weakly fair run a pending SEND completes if fewer than `N-1` items are outstanding. -/
def Obligations.FairRunCompletesSend : Prop :=
  ∀ (σ : Nat → Turn) (r : Nat → State) (k : Nat) (v : VmId), IsRun σ r → WeaklyFair σ r → (r k).Inv → ((r k).vm v).pend = .send →
    (r k).q.count (r k).cfg.capacity < (r k).cfg.capacity - 1 →
    ∃ m, k < m ∧ ((r m).vm v).pend = .none ∧ ((r m).vm v).messagesSent = ((r k).vm v).messagesSent + 1

/-! ### Launch and end of a run (70_reset_and_hazards.md) -/

/-- R44 and R264, by the launch parameters: the machine that the host constructs holds every reset value of R44's
table, and in each memory the image's words from its origin up and `MEM0` everywhere else. -/
def Obligations.BootEstablishesReset : Prop :=
  ∀ (l : Launch) (s : State), l.wf = true → State.boot l = .next s →
    s.cfg = l.cfg ∧ s.q.buffer = List.replicate l.cfg.capacity none ∧ s.q.head = 0 ∧ s.q.tail = 0 ∧
    s.q.tailP = 0 ∧ s.q.headC = 0 ∧ s.out = [] ∧ s.producer = none ∧ s.consumer = none ∧
    ∀ v, ∃ file im, (l.vm v).file = some file ∧ parseImage file = some im ∧
      (∀ r, (s.vm v).reg r = ((l.vm v).regs)[r]) ∧ (s.vm v).pc = im.origin ∧
      (s.vm v).cond = (l.vm v).cond ∧
      (∀ i (h : i < im.words.length), (s.vm v).mem.read (BitVec.ofNat 16 (im.origin.toNat + i)) = im.words[i]) ∧
      (∀ a : Word, a.toNat < im.origin.toNat ∨ im.origin.toNat + im.words.length ≤ a.toNat →
        (s.vm v).mem.read a = (l.vm v).mem.read a) ∧
      (s.vm v).running = true ∧ (s.vm v).icount = 0 ∧ (s.vm v).messagesSent = 0 ∧
      (s.vm v).messagesReceived = 0 ∧ (s.vm v).receiveSpinIterations = 0 ∧ (s.vm v).pend = .none

/-- A launch that is not refused meets the invariant. -/
def Obligations.BootMeetsInvariant : Prop :=
  ∀ (l : Launch) (s : State), l.wf = true → State.boot l = .next s → s.Inv

/-- R238, R264, D28: the run starts exactly if both images load; if one does not, neither instance ever steps and the
outcome names an instance whose image fails. -/
def Obligations.ImageFailureStopsBoth : Prop :=
  ∀ l : Launch, l.cfg.wf = true →
    ((∃ s, State.boot l = .next s) ↔ l.p.load.isSome = true ∧ l.c.load.isSome = true) ∧
    (l.p.load = none ∨ l.c.load = none →
      ∃ v, State.boot l = .fault (.imageLoadFailure v) ∧ (l.vm v).load = none)

/-- R264, R265: an image file is big-endian words, the origin first; it loads exactly if its words do not run past cell
0xFFFF, and an odd byte left over or a missing origin makes it malformed. -/
def Obligations.ImageFormat : Prop :=
  (∀ (origin : Word) (words : List Word),
    parseImage ((origin :: words).flatMap fun w => [BitVec.ofNat 8 (w.toNat / 256), BitVec.ofNat 8 (w.toNat % 256)])
      = if origin.toNat + words.length ≤ 65536 then some { origin := origin, words := words } else none) ∧
  (∀ file : List Byte, file.length % 2 = 1 → parseImage file = none) ∧ parseImage [] = none

/-- R268, R269, R270: a final state stays final, both instances, the output and the host's report stay as they are, and
the report gives each instance's four counters and how it stopped. -/
def Obligations.FinalStateStays : Prop :=
  ∀ s : State, s.final = true →
    (∀ t, step s = .next t → t.final = true ∧ (∀ v, t.vm v = s.vm v) ∧ t.out = s.out ∧ t.report = s.report) ∧
    ∃ p c, s.report = some (p, c) ∧
      (p.icount, p.messagesSent, p.messagesReceived, p.receiveSpinIterations)
        = (s.vmP.icount, s.vmP.messagesSent, s.vmP.messagesReceived, s.vmP.receiveSpinIterations) ∧
      (c.icount, c.messagesSent, c.messagesReceived, c.receiveSpinIterations)
        = (s.vmC.icount, s.vmC.messagesSent, s.vmC.messagesReceived, s.vmC.receiveSpinIterations) ∧
      (p.stop = .halt ↔ s.vmP.running = false) ∧ (c.stop = .halt ↔ s.vmC.running = false)

/-! ### Hardware mapping (40_ring_buffer.md section 3) -/

/-- R141: decoding inverts the Gray code of an index; two consecutive indices, the wrap from `N-1` to 0 included, differ
in exactly one bit of it. The last clause, that after two clocks the synchroniser shows the index, is about the
model's own two-flop synchroniser, which samples a whole index at each clock: the model's choice (log entry 24). The
spec fixes no number of cycles of lag (91_not_in_source.md N1), and no step of the machine uses it. -/
def Obligations.GrayCrossing : Prop :=
  (∀ k b : Nat, b < 2 ^ k → grayDecode k (grayEncode b) = b ∧ grayEncode b < 2 ^ k) ∧
  (∀ k b : Nat, 1 ≤ k → b < 2 ^ k → ∃ i < k, grayEncode b ^^^ grayEncode ((b + 1) % 2 ^ k) = 2 ^ i) ∧
  (∀ (k b : Nat) (y : Synchroniser), b < 2 ^ k → ((y.clock b).clock b).view k = b)
end

