-- ==== Sys2Proof/Laws/Encoding.lean ====
section
/-! SUPPORT. The fields of a word as numbers (R11), on the decoder's and on the encoder's side. -/

namespace Sys2Proof.Machine

/-! ### The decoder's fields -/

theorem extract_eq_ofNat (w : Word) (hi lo len : Nat) (h : len = hi - lo + 1) :
    w.extractLsb' lo len = BitVec.ofNat len (wordBits w hi lo) := by
  subst h
  apply BitVec.eq_of_toNat_eq
  rw [BitVec.extractLsb'_toNat, BitVec.toNat_ofNat, Nat.shiftRight_eq_div_pow, wordBits, Nat.mod_mod]

theorem opcodeOf_eq (w : Word) : opcodeOf w = BitVec.ofNat 4 (wordBits w 15 12) := extract_eq_ofNat w 15 12 4 rfl
theorem fieldMask_eq (w : Word) : fieldMask w = BitVec.ofNat 3 (wordBits w 11 9) := extract_eq_ofNat w 11 9 3 rfl
theorem fieldImm5_eq (w : Word) : fieldImm5 w = BitVec.ofNat 5 (wordBits w 4 0) := extract_eq_ofNat w 4 0 5 rfl
theorem fieldOff9_eq (w : Word) : fieldOff9 w = BitVec.ofNat 9 (wordBits w 8 0) := extract_eq_ofNat w 8 0 9 rfl
theorem fieldOff11_eq (w : Word) : fieldOff11 w = BitVec.ofNat 11 (wordBits w 10 0) := extract_eq_ofNat w 10 0 11 rfl
theorem fieldVect8_eq (w : Word) : fieldVect8 w = BitVec.ofNat 8 (wordBits w 7 0) := extract_eq_ofNat w 7 0 8 rfl

theorem fieldMode_eq (w : Word) : fieldMode w = decide (wordBits w 5 5 = 1) := by
  simp [fieldMode, wordBits, BitVec.getLsbD, Nat.testBit_eq_decide_div_mod_eq]

theorem regField_eq (w : Word) (hi lo : Nat) (h : hi - lo = 2) : regField w lo = regAt w hi lo := by
  apply Fin.ext
  have e := BitVec.extractLsb'_toNat lo 3 w
  rw [Nat.shiftRight_eq_div_pow] at e
  have : ((regAt w hi lo : RegId) : Nat) = w.toNat / 2 ^ lo % 2 ^ 3 := by
    simp [regAt, wordBits, h]
  rw [this]
  exact e

theorem fieldDR_eq (w : Word) : fieldDR w = regAt w 11 9 := regField_eq w 11 9 rfl
theorem fieldSR1_eq (w : Word) : fieldSR1 w = regAt w 8 6 := regField_eq w 8 6 rfl
theorem fieldSR2_eq (w : Word) : fieldSR2 w = regAt w 2 0 := regField_eq w 2 0 rfl

/-! ### The encoder's words -/

theorem toNat_append {n m : Nat} (x : BitVec n) (y : BitVec m) : (x ++ y).toNat = x.toNat * 2 ^ m + y.toNat := by
  rw [BitVec.toNat_append, ← Nat.shiftLeft_add_eq_or_of_lt y.isLt, Nat.shiftLeft_eq]

@[simp] theorem regBits_toNat (r : RegId) : (regBits r).toNat = r.val := rfl

theorem encode_br_toNat (mask : BitVec 3) (off9 : BitVec 9) :
    (encode (.br mask off9)).toNat = mask.toNat * 512 + off9.toNat := by
  refine (toNat_append (0x0#4 ++ mask) off9).trans ?_
  repeat rw [toNat_append]
  simp

theorem encode_addReg_toNat (dr sr1 sr2 : RegId) :
    (encode (.addReg dr sr1 sr2)).toNat = 0x1000 + dr.val * 512 + sr1.val * 64 + sr2.val := by
  refine (toNat_append (0x1#4 ++ regBits dr ++ regBits sr1 ++ 0b000#3) (regBits sr2)).trans ?_
  repeat rw [toNat_append]
  simp; omega

theorem encode_addImm_toNat (dr sr1 : RegId) (imm5 : BitVec 5) :
    (encode (.addImm dr sr1 imm5)).toNat = 0x1020 + dr.val * 512 + sr1.val * 64 + imm5.toNat := by
  refine (toNat_append (0x1#4 ++ regBits dr ++ regBits sr1 ++ 0b1#1) imm5).trans ?_
  repeat rw [toNat_append]
  simp; omega

theorem encode_andReg_toNat (dr sr1 sr2 : RegId) :
    (encode (.andReg dr sr1 sr2)).toNat = 0x5000 + dr.val * 512 + sr1.val * 64 + sr2.val := by
  refine (toNat_append (0x5#4 ++ regBits dr ++ regBits sr1 ++ 0b000#3) (regBits sr2)).trans ?_
  repeat rw [toNat_append]
  simp; omega

theorem encode_andImm_toNat (dr sr1 : RegId) (imm5 : BitVec 5) :
    (encode (.andImm dr sr1 imm5)).toNat = 0x5020 + dr.val * 512 + sr1.val * 64 + imm5.toNat := by
  refine (toNat_append (0x5#4 ++ regBits dr ++ regBits sr1 ++ 0b1#1) imm5).trans ?_
  repeat rw [toNat_append]
  simp; omega

theorem encode_not_toNat (dr sr : RegId) :
    (encode (.not dr sr)).toNat = 0x903F + dr.val * 512 + sr.val * 64 := by
  refine (toNat_append (0x9#4 ++ regBits dr ++ regBits sr) 0b111111#6).trans ?_
  repeat rw [toNat_append]
  simp; omega

theorem encode_ld_toNat (dr : RegId) (off9 : BitVec 9) :
    (encode (.ld dr off9)).toNat = 0x2000 + dr.val * 512 + off9.toNat := by
  refine (toNat_append (0x2#4 ++ regBits dr) off9).trans ?_
  repeat rw [toNat_append]
  simp; omega

theorem encode_st_toNat (sr : RegId) (off9 : BitVec 9) :
    (encode (.st sr off9)).toNat = 0x3000 + sr.val * 512 + off9.toNat := by
  refine (toNat_append (0x3#4 ++ regBits sr) off9).trans ?_
  repeat rw [toNat_append]
  simp; omega

theorem encode_jsr_toNat (off11 : BitVec 11) : (encode (.jsr off11)).toNat = 0x4800 + off11.toNat := by
  refine (toNat_append (0x4#4 ++ 0b1#1) off11).trans ?_
  repeat rw [toNat_append]
  simp

theorem encode_jmp_toNat (baseR : RegId) : (encode (.jmp baseR)).toNat = 0xC000 + baseR.val * 64 := by
  refine (toNat_append (0xC#4 ++ 0b000#3 ++ regBits baseR) 0b000000#6).trans ?_
  repeat rw [toNat_append]
  simp; omega

theorem encode_trapOther_toNat (vect8 : BitVec 8) : (encode (.trapOther vect8)).toNat = 0xF000 + vect8.toNat := by
  refine (toNat_append (0xF#4 ++ 0x0#4) vect8).trans ?_
  repeat rw [toNat_append]
  simp

end Sys2Proof.Machine
end

