-- ==== Sys2Proof/Laws/State.lean ====
section
/-! SUPPORT. One lemma per field per update of an instance and of the machine, each true by rfl, so that no later
proof unfolds a record update. -/

namespace Sys2Proof.Machine

/-! ### Updates of an instance -/

theorem Vm.setReg_regs (x : Vm) (r : RegId) (v : Word) : (x.setReg r v).regs = x.regs.set r v := rfl
@[simp] theorem Vm.setReg_pc (x : Vm) (r : RegId) (v : Word) : (x.setReg r v).pc = x.pc := rfl
@[simp] theorem Vm.setReg_cond (x : Vm) (r : RegId) (v : Word) : (x.setReg r v).cond = x.cond := rfl
@[simp] theorem Vm.setReg_mem (x : Vm) (r : RegId) (v : Word) : (x.setReg r v).mem = x.mem := rfl
@[simp] theorem Vm.setReg_running (x : Vm) (r : RegId) (v : Word) : (x.setReg r v).running = x.running := rfl
@[simp] theorem Vm.setReg_icount (x : Vm) (r : RegId) (v : Word) : (x.setReg r v).icount = x.icount := rfl
@[simp] theorem Vm.setReg_messagesSent (x : Vm) (r : RegId) (v : Word) : (x.setReg r v).messagesSent = x.messagesSent := rfl
@[simp] theorem Vm.setReg_messagesReceived (x : Vm) (r : RegId) (v : Word) : (x.setReg r v).messagesReceived = x.messagesReceived := rfl
@[simp] theorem Vm.setReg_receiveSpinIterations (x : Vm) (r : RegId) (v : Word) : (x.setReg r v).receiveSpinIterations = x.receiveSpinIterations := rfl
@[simp] theorem Vm.setReg_pend (x : Vm) (r : RegId) (v : Word) : (x.setReg r v).pend = x.pend := rfl
@[simp] theorem Vm.setReg_reg_self (x : Vm) (r : RegId) (v : Word) : (x.setReg r v).reg r = v := by
  simp [Vm.reg, Vm.setReg]
theorem Vm.setReg_reg_ne (x : Vm) {r r' : RegId} (v : Word) (h : r' ≠ r) : (x.setReg r v).reg r' = x.reg r' := by
  have : (r : Nat) ≠ (r' : Nat) := fun e => h (Fin.ext e.symm)
  simp [Vm.reg, Vm.setReg, Vector.getElem_set_ne, this]
theorem Vm.setReg_reg (x : Vm) (r r' : RegId) (v : Word) :
    (x.setReg r v).reg r' = if r' = r then v else x.reg r' := by
  split
  · next h => rw [h, Vm.setReg_reg_self]
  · next h => exact Vm.setReg_reg_ne x v h

@[simp] theorem Vm.setPc_regs (x : Vm) (t : Word) : (x.setPc t).regs = x.regs := rfl
@[simp] theorem Vm.setPc_pc (x : Vm) (t : Word) : (x.setPc t).pc = t := rfl
@[simp] theorem Vm.setPc_cond (x : Vm) (t : Word) : (x.setPc t).cond = x.cond := rfl
@[simp] theorem Vm.setPc_mem (x : Vm) (t : Word) : (x.setPc t).mem = x.mem := rfl
@[simp] theorem Vm.setPc_running (x : Vm) (t : Word) : (x.setPc t).running = x.running := rfl
@[simp] theorem Vm.setPc_icount (x : Vm) (t : Word) : (x.setPc t).icount = x.icount := rfl
@[simp] theorem Vm.setPc_messagesSent (x : Vm) (t : Word) : (x.setPc t).messagesSent = x.messagesSent := rfl
@[simp] theorem Vm.setPc_messagesReceived (x : Vm) (t : Word) : (x.setPc t).messagesReceived = x.messagesReceived := rfl
@[simp] theorem Vm.setPc_receiveSpinIterations (x : Vm) (t : Word) : (x.setPc t).receiveSpinIterations = x.receiveSpinIterations := rfl
@[simp] theorem Vm.setPc_pend (x : Vm) (t : Word) : (x.setPc t).pend = x.pend := rfl
@[simp] theorem Vm.setPc_reg (x : Vm) (t : Word) (r : RegId) : (x.setPc t).reg r = x.reg r := rfl

@[simp] theorem Vm.setCond_regs (x : Vm) (c : Cond) : (x.setCond c).regs = x.regs := rfl
@[simp] theorem Vm.setCond_pc (x : Vm) (c : Cond) : (x.setCond c).pc = x.pc := rfl
@[simp] theorem Vm.setCond_cond (x : Vm) (c : Cond) : (x.setCond c).cond = c := rfl
@[simp] theorem Vm.setCond_mem (x : Vm) (c : Cond) : (x.setCond c).mem = x.mem := rfl
@[simp] theorem Vm.setCond_running (x : Vm) (c : Cond) : (x.setCond c).running = x.running := rfl
@[simp] theorem Vm.setCond_icount (x : Vm) (c : Cond) : (x.setCond c).icount = x.icount := rfl
@[simp] theorem Vm.setCond_messagesSent (x : Vm) (c : Cond) : (x.setCond c).messagesSent = x.messagesSent := rfl
@[simp] theorem Vm.setCond_messagesReceived (x : Vm) (c : Cond) : (x.setCond c).messagesReceived = x.messagesReceived := rfl
@[simp] theorem Vm.setCond_receiveSpinIterations (x : Vm) (c : Cond) : (x.setCond c).receiveSpinIterations = x.receiveSpinIterations := rfl
@[simp] theorem Vm.setCond_pend (x : Vm) (c : Cond) : (x.setCond c).pend = x.pend := rfl
@[simp] theorem Vm.setCond_reg (x : Vm) (c : Cond) (r : RegId) : (x.setCond c).reg r = x.reg r := rfl

@[simp] theorem Vm.store_regs (x : Vm) (a v : Word) : (x.store a v).regs = x.regs := rfl
@[simp] theorem Vm.store_pc (x : Vm) (a v : Word) : (x.store a v).pc = x.pc := rfl
@[simp] theorem Vm.store_cond (x : Vm) (a v : Word) : (x.store a v).cond = x.cond := rfl
@[simp] theorem Vm.store_mem (x : Vm) (a v : Word) : (x.store a v).mem = x.mem.write a v := rfl
@[simp] theorem Vm.store_running (x : Vm) (a v : Word) : (x.store a v).running = x.running := rfl
@[simp] theorem Vm.store_icount (x : Vm) (a v : Word) : (x.store a v).icount = x.icount := rfl
@[simp] theorem Vm.store_messagesSent (x : Vm) (a v : Word) : (x.store a v).messagesSent = x.messagesSent := rfl
@[simp] theorem Vm.store_messagesReceived (x : Vm) (a v : Word) : (x.store a v).messagesReceived = x.messagesReceived := rfl
@[simp] theorem Vm.store_receiveSpinIterations (x : Vm) (a v : Word) : (x.store a v).receiveSpinIterations = x.receiveSpinIterations := rfl
@[simp] theorem Vm.store_pend (x : Vm) (a v : Word) : (x.store a v).pend = x.pend := rfl
@[simp] theorem Vm.store_reg (x : Vm) (a v : Word) (r : RegId) : (x.store a v).reg r = x.reg r := rfl

@[simp] theorem Vm.setPend_regs (x : Vm) (p : Pend) : (x.setPend p).regs = x.regs := rfl
@[simp] theorem Vm.setPend_pc (x : Vm) (p : Pend) : (x.setPend p).pc = x.pc := rfl
@[simp] theorem Vm.setPend_cond (x : Vm) (p : Pend) : (x.setPend p).cond = x.cond := rfl
@[simp] theorem Vm.setPend_mem (x : Vm) (p : Pend) : (x.setPend p).mem = x.mem := rfl
@[simp] theorem Vm.setPend_running (x : Vm) (p : Pend) : (x.setPend p).running = x.running := rfl
@[simp] theorem Vm.setPend_icount (x : Vm) (p : Pend) : (x.setPend p).icount = x.icount := rfl
@[simp] theorem Vm.setPend_messagesSent (x : Vm) (p : Pend) : (x.setPend p).messagesSent = x.messagesSent := rfl
@[simp] theorem Vm.setPend_messagesReceived (x : Vm) (p : Pend) : (x.setPend p).messagesReceived = x.messagesReceived := rfl
@[simp] theorem Vm.setPend_receiveSpinIterations (x : Vm) (p : Pend) : (x.setPend p).receiveSpinIterations = x.receiveSpinIterations := rfl
@[simp] theorem Vm.setPend_pend (x : Vm) (p : Pend) : (x.setPend p).pend = p := rfl
@[simp] theorem Vm.setPend_reg (x : Vm) (p : Pend) (r : RegId) : (x.setPend p).reg r = x.reg r := rfl

@[simp] theorem Vm.halt_regs (x : Vm) : (x.halt).regs = x.regs := rfl
@[simp] theorem Vm.halt_pc (x : Vm) : (x.halt).pc = x.pc := rfl
@[simp] theorem Vm.halt_cond (x : Vm) : (x.halt).cond = x.cond := rfl
@[simp] theorem Vm.halt_mem (x : Vm) : (x.halt).mem = x.mem := rfl
@[simp] theorem Vm.halt_running (x : Vm) : (x.halt).running = false := rfl
@[simp] theorem Vm.halt_icount (x : Vm) : (x.halt).icount = x.icount := rfl
@[simp] theorem Vm.halt_messagesSent (x : Vm) : (x.halt).messagesSent = x.messagesSent := rfl
@[simp] theorem Vm.halt_messagesReceived (x : Vm) : (x.halt).messagesReceived = x.messagesReceived := rfl
@[simp] theorem Vm.halt_receiveSpinIterations (x : Vm) : (x.halt).receiveSpinIterations = x.receiveSpinIterations := rfl
@[simp] theorem Vm.halt_pend (x : Vm) : (x.halt).pend = x.pend := rfl
@[simp] theorem Vm.halt_reg (x : Vm) (r : RegId) : (x.halt).reg r = x.reg r := rfl

@[simp] theorem Vm.count_regs (x : Vm) : (x.count).regs = x.regs := rfl
@[simp] theorem Vm.count_pc (x : Vm) : (x.count).pc = x.pc := rfl
@[simp] theorem Vm.count_cond (x : Vm) : (x.count).cond = x.cond := rfl
@[simp] theorem Vm.count_mem (x : Vm) : (x.count).mem = x.mem := rfl
@[simp] theorem Vm.count_running (x : Vm) : (x.count).running = x.running := rfl
@[simp] theorem Vm.count_icount (x : Vm) : (x.count).icount = x.icount + 1 := rfl
@[simp] theorem Vm.count_messagesSent (x : Vm) : (x.count).messagesSent = x.messagesSent := rfl
@[simp] theorem Vm.count_messagesReceived (x : Vm) : (x.count).messagesReceived = x.messagesReceived := rfl
@[simp] theorem Vm.count_receiveSpinIterations (x : Vm) : (x.count).receiveSpinIterations = x.receiveSpinIterations := rfl
@[simp] theorem Vm.count_pend (x : Vm) : (x.count).pend = x.pend := rfl
@[simp] theorem Vm.count_reg (x : Vm) (r : RegId) : (x.count).reg r = x.reg r := rfl

@[simp] theorem Vm.countSent_regs (x : Vm) : (x.countSent).regs = x.regs := rfl
@[simp] theorem Vm.countSent_pc (x : Vm) : (x.countSent).pc = x.pc := rfl
@[simp] theorem Vm.countSent_cond (x : Vm) : (x.countSent).cond = x.cond := rfl
@[simp] theorem Vm.countSent_mem (x : Vm) : (x.countSent).mem = x.mem := rfl
@[simp] theorem Vm.countSent_running (x : Vm) : (x.countSent).running = x.running := rfl
@[simp] theorem Vm.countSent_icount (x : Vm) : (x.countSent).icount = x.icount := rfl
@[simp] theorem Vm.countSent_messagesSent (x : Vm) : (x.countSent).messagesSent = x.messagesSent + 1 := rfl
@[simp] theorem Vm.countSent_messagesReceived (x : Vm) : (x.countSent).messagesReceived = x.messagesReceived := rfl
@[simp] theorem Vm.countSent_receiveSpinIterations (x : Vm) : (x.countSent).receiveSpinIterations = x.receiveSpinIterations := rfl
@[simp] theorem Vm.countSent_pend (x : Vm) : (x.countSent).pend = x.pend := rfl
@[simp] theorem Vm.countSent_reg (x : Vm) (r : RegId) : (x.countSent).reg r = x.reg r := rfl

@[simp] theorem Vm.countReceived_regs (x : Vm) : (x.countReceived).regs = x.regs := rfl
@[simp] theorem Vm.countReceived_pc (x : Vm) : (x.countReceived).pc = x.pc := rfl
@[simp] theorem Vm.countReceived_cond (x : Vm) : (x.countReceived).cond = x.cond := rfl
@[simp] theorem Vm.countReceived_mem (x : Vm) : (x.countReceived).mem = x.mem := rfl
@[simp] theorem Vm.countReceived_running (x : Vm) : (x.countReceived).running = x.running := rfl
@[simp] theorem Vm.countReceived_icount (x : Vm) : (x.countReceived).icount = x.icount := rfl
@[simp] theorem Vm.countReceived_messagesSent (x : Vm) : (x.countReceived).messagesSent = x.messagesSent := rfl
@[simp] theorem Vm.countReceived_messagesReceived (x : Vm) : (x.countReceived).messagesReceived = x.messagesReceived + 1 := rfl
@[simp] theorem Vm.countReceived_receiveSpinIterations (x : Vm) : (x.countReceived).receiveSpinIterations = x.receiveSpinIterations := rfl
@[simp] theorem Vm.countReceived_pend (x : Vm) : (x.countReceived).pend = x.pend := rfl
@[simp] theorem Vm.countReceived_reg (x : Vm) (r : RegId) : (x.countReceived).reg r = x.reg r := rfl

@[simp] theorem Vm.countSpin_regs (x : Vm) : (x.countSpin).regs = x.regs := rfl
@[simp] theorem Vm.countSpin_pc (x : Vm) : (x.countSpin).pc = x.pc := rfl
@[simp] theorem Vm.countSpin_cond (x : Vm) : (x.countSpin).cond = x.cond := rfl
@[simp] theorem Vm.countSpin_mem (x : Vm) : (x.countSpin).mem = x.mem := rfl
@[simp] theorem Vm.countSpin_running (x : Vm) : (x.countSpin).running = x.running := rfl
@[simp] theorem Vm.countSpin_icount (x : Vm) : (x.countSpin).icount = x.icount := rfl
@[simp] theorem Vm.countSpin_messagesSent (x : Vm) : (x.countSpin).messagesSent = x.messagesSent := rfl
@[simp] theorem Vm.countSpin_messagesReceived (x : Vm) : (x.countSpin).messagesReceived = x.messagesReceived := rfl
@[simp] theorem Vm.countSpin_receiveSpinIterations (x : Vm) : (x.countSpin).receiveSpinIterations = x.receiveSpinIterations + 1 := rfl
@[simp] theorem Vm.countSpin_pend (x : Vm) : (x.countSpin).pend = x.pend := rfl
@[simp] theorem Vm.countSpin_reg (x : Vm) (r : RegId) : (x.countSpin).reg r = x.reg r := rfl

/-! ### Updates of the machine -/

@[simp] theorem VmId.other_ne (v : VmId) : v.other ≠ v := by cases v <;> decide
@[simp] theorem VmId.other_other (v : VmId) : v.other.other = v := by cases v <;> rfl
theorem VmId.eq_or_eq_other (u v : VmId) : u = v ∨ u = v.other := by cases u <;> cases v <;> decide

@[simp] theorem State.setVm_vm_self (s : State) (v : VmId) (x : Vm) : (s.setVm v x).vm v = x := by cases v <;> rfl
theorem State.setVm_vm_ne (s : State) {u v : VmId} (x : Vm) (h : u ≠ v) : (s.setVm v x).vm u = s.vm u := by
  cases u <;> cases v <;> first | rfl | exact absurd rfl h
@[simp] theorem State.setVm_vm_other (s : State) (v : VmId) (x : Vm) : (s.setVm v x).vm v.other = s.vm v.other :=
  State.setVm_vm_ne s x (VmId.other_ne v)
@[simp] theorem State.setVm_cfg (s : State) (v : VmId) (x : Vm) : (s.setVm v x).cfg = s.cfg := by cases v <;> rfl
@[simp] theorem State.setVm_q (s : State) (v : VmId) (x : Vm) : (s.setVm v x).q = s.q := by cases v <;> rfl
@[simp] theorem State.setVm_producer (s : State) (v : VmId) (x : Vm) : (s.setVm v x).producer = s.producer := by cases v <;> rfl
@[simp] theorem State.setVm_consumer (s : State) (v : VmId) (x : Vm) : (s.setVm v x).consumer = s.consumer := by cases v <;> rfl
@[simp] theorem State.setVm_out (s : State) (v : VmId) (x : Vm) : (s.setVm v x).out = s.out := by cases v <;> rfl
@[simp] theorem State.setVm_active (s : State) (v : VmId) (x : Vm) : (s.setVm v x).active = s.active := by cases v <;> rfl
@[simp] theorem State.setVm_sched (s : State) (v : VmId) (x : Vm) : (s.setVm v x).sched = s.sched := by cases v <;> rfl
@[simp] theorem State.setVm_tick (s : State) (v : VmId) (x : Vm) : (s.setVm v x).tick = s.tick := by cases v <;> rfl

@[simp] theorem State.updCur_cfg (s : State) (f : Vm → Vm) : (s.updCur f).cfg = s.cfg := State.setVm_cfg ..
@[simp] theorem State.updCur_q (s : State) (f : Vm → Vm) : (s.updCur f).q = s.q := State.setVm_q ..
@[simp] theorem State.updCur_producer (s : State) (f : Vm → Vm) : (s.updCur f).producer = s.producer := State.setVm_producer ..
@[simp] theorem State.updCur_consumer (s : State) (f : Vm → Vm) : (s.updCur f).consumer = s.consumer := State.setVm_consumer ..
@[simp] theorem State.updCur_out (s : State) (f : Vm → Vm) : (s.updCur f).out = s.out := State.setVm_out ..
@[simp] theorem State.updCur_active (s : State) (f : Vm → Vm) : (s.updCur f).active = s.active := State.setVm_active ..
@[simp] theorem State.updCur_sched (s : State) (f : Vm → Vm) : (s.updCur f).sched = s.sched := State.setVm_sched ..
@[simp] theorem State.updCur_tick (s : State) (f : Vm → Vm) : (s.updCur f).tick = s.tick := State.setVm_tick ..
@[simp] theorem State.updCur_cur (s : State) (f : Vm → Vm) : (s.updCur f).cur = f s.cur := by
  simp [State.updCur, State.cur]
/-- Successive changes of the executing instance are one change. -/
@[simp] theorem State.updCur_updCur (s : State) (f g : Vm → Vm) : (s.updCur f).updCur g = s.updCur (fun x => g (f x)) := by
  simp only [State.updCur, State.setVm_active, State.cur, State.setVm_vm_self]
  cases s.active <;> rfl

@[simp] theorem State.updCur_vm (s : State) (f : Vm → Vm) (v : VmId) :
    (s.updCur f).vm v = if v = s.active then f s.cur else s.vm v := by
  split
  · next h => rw [h]; exact State.setVm_vm_self ..
  · next h => exact State.setVm_vm_ne s _ h
theorem State.updCur_vm_ne (s : State) (f : Vm → Vm) {v : VmId} (h : v ≠ s.active) : (s.updCur f).vm v = s.vm v :=
  State.setVm_vm_ne s _ h
theorem State.vm_active (s : State) : s.vm s.active = s.cur := rfl

/-! ### The operations of the executing instance, as changes of it -/

@[simp] theorem State.writeReg_eq (s : State) (r : RegId) (v : Word) : s.writeReg r v = s.updCur (·.setReg r v) := rfl
@[simp] theorem State.setPc_eq (s : State) (t : Word) : s.setPc t = s.updCur (·.setPc t) := rfl
@[simp] theorem State.setcc_eq (s : State) (v : Word) : s.setcc v = s.updCur (·.setCond (condOf v)) := rfl
@[simp] theorem State.store_eq (s : State) (a v : Word) : s.store a v = s.updCur (·.store a v) := rfl
@[simp] theorem State.retire_eq (s : State) : s.retire = s.updCur Vm.count := rfl
@[simp] theorem State.noEffect_eq (s : State) : s.noEffect = s.updCur Vm.count := rfl
theorem State.unrecognised_nop {s : State} (h : s.cfg.unrecognized = .nop) :
    s.unrecognised = .next (s.updCur Vm.count) := by simp only [State.unrecognised, h]; rfl
theorem State.unrecognised_refuse {s : State} (h : s.cfg.unrecognized = .refuse) :
    s.unrecognised = .refused .unrecognisedWord := by simp only [State.unrecognised, h]
theorem State.unrecognised_next {s t : State} (h : s.unrecognised = .next t) : t = s.updCur Vm.count := by
  rcases hu : s.cfg.unrecognized
  · rw [State.unrecognised_nop hu] at h; cases h; rfl
  · rw [State.unrecognised_refuse hu] at h; cases h
@[simp] theorem State.advancePc_eq (s : State) : s.advancePc = s.updCur (·.setPc (nextAddr s.cur.pc)) := rfl
@[simp] theorem State.writeResult_eq (s : State) (dr : RegId) (r : Word) :
    s.writeResult dr r = (s.updCur (·.setReg dr r)).updCur (·.setCond (condOf r)) := rfl
@[simp] theorem State.trapEntry_eq (s : State) :
    s.trapEntry = s.updCur (fun x => if s.cfg.trapSavesR7 then x.setReg 7 x.pc else x) := rfl
@[simp] theorem State.setccIf_eq (s : State) (b : Bool) (v : Word) :
    s.setccIf b v = s.updCur (fun x => if b then x.setCond (condOf v) else x) := rfl
@[simp] theorem State.readReg_eq (s : State) (r : RegId) : s.readReg r = s.cur.reg r := rfl
@[simp] theorem State.load_eq (s : State) (a : Word) : s.load a = s.cur.mem.read a := rfl

@[simp] theorem State.emit_cfg (s : State) (b : Byte) : (s.emit b).cfg = s.cfg := rfl
@[simp] theorem State.emit_q (s : State) (b : Byte) : (s.emit b).q = s.q := rfl
@[simp] theorem State.emit_producer (s : State) (b : Byte) : (s.emit b).producer = s.producer := rfl
@[simp] theorem State.emit_consumer (s : State) (b : Byte) : (s.emit b).consumer = s.consumer := rfl
@[simp] theorem State.emit_active (s : State) (b : Byte) : (s.emit b).active = s.active := rfl
@[simp] theorem State.emit_sched (s : State) (b : Byte) : (s.emit b).sched = s.sched := rfl
@[simp] theorem State.emit_tick (s : State) (b : Byte) : (s.emit b).tick = s.tick := rfl
@[simp] theorem State.emit_out (s : State) (b : Byte) : (s.emit b).out = s.out ++ [b] := rfl
@[simp] theorem State.emit_cur (s : State) (b : Byte) : (s.emit b).cur = s.cur := by
  cases h : s.active <;> simp [State.cur, State.vm, State.emit, h]
@[simp] theorem State.emit_vm (s : State) (b : Byte) (v : VmId) : (s.emit b).vm v = s.vm v := by cases v <;> rfl

@[simp] theorem State.takeTurn_cfg (s : State) : s.takeTurn.cfg = s.cfg := rfl
@[simp] theorem State.takeTurn_q (s : State) : s.takeTurn.q = s.q := rfl
@[simp] theorem State.takeTurn_producer (s : State) : s.takeTurn.producer = s.producer := rfl
@[simp] theorem State.takeTurn_consumer (s : State) : s.takeTurn.consumer = s.consumer := rfl
@[simp] theorem State.takeTurn_out (s : State) : s.takeTurn.out = s.out := rfl
@[simp] theorem State.takeTurn_active (s : State) : s.takeTurn.active = s.active := rfl
@[simp] theorem State.takeTurn_sched (s : State) : s.takeTurn.sched = s.sched.tail := rfl
@[simp] theorem State.takeTurn_tick (s : State) : s.takeTurn.tick = s.tick + 1 := rfl
@[simp] theorem State.takeTurn_vm (s : State) (v : VmId) : s.takeTurn.vm v = s.vm v := by cases v <;> rfl

@[simp] theorem State.activate_cfg (s : State) (v : VmId) : (s.activate v).cfg = s.cfg := rfl
@[simp] theorem State.activate_q (s : State) (v : VmId) : (s.activate v).q = s.q := rfl
@[simp] theorem State.activate_producer (s : State) (v : VmId) : (s.activate v).producer = s.producer := rfl
@[simp] theorem State.activate_consumer (s : State) (v : VmId) : (s.activate v).consumer = s.consumer := rfl
@[simp] theorem State.activate_out (s : State) (v : VmId) : (s.activate v).out = s.out := rfl
@[simp] theorem State.activate_active (s : State) (v : VmId) : (s.activate v).active = v := rfl
@[simp] theorem State.activate_sched (s : State) (v : VmId) : (s.activate v).sched = s.sched := rfl
@[simp] theorem State.activate_tick (s : State) (v : VmId) : (s.activate v).tick = s.tick := rfl
@[simp] theorem State.activate_vm (s : State) (v : VmId) (u : VmId) : (s.activate v).vm u = s.vm u := by cases u <;> rfl
@[simp] theorem State.setRing_cfg (s : State) (q : Ring) : (s.setRing q).cfg = s.cfg := rfl
@[simp] theorem State.setRing_q (s : State) (q : Ring) : (s.setRing q).q = q := rfl
@[simp] theorem State.setRing_producer (s : State) (q : Ring) : (s.setRing q).producer = s.producer := rfl
@[simp] theorem State.setRing_consumer (s : State) (q : Ring) : (s.setRing q).consumer = s.consumer := rfl
@[simp] theorem State.setRing_out (s : State) (q : Ring) : (s.setRing q).out = s.out := rfl
@[simp] theorem State.setRing_active (s : State) (q : Ring) : (s.setRing q).active = s.active := rfl
@[simp] theorem State.setRing_sched (s : State) (q : Ring) : (s.setRing q).sched = s.sched := rfl
@[simp] theorem State.setRing_tick (s : State) (q : Ring) : (s.setRing q).tick = s.tick := rfl
@[simp] theorem State.setRing_vm (s : State) (q : Ring) (u : VmId) : (s.setRing q).vm u = s.vm u := by cases u <;> rfl
@[simp] theorem State.activate_cur (s : State) (v : VmId) : (s.activate v).cur = s.vm v := by cases v <;> rfl
@[simp] theorem State.setRing_cur (s : State) (q : Ring) : (s.setRing q).cur = s.cur := by
  simp [← State.vm_active]

@[simp] theorem State.syncHead_cfg (s : State) : s.syncHead.cfg = s.cfg := rfl
@[simp] theorem State.syncHead_producer (s : State) : s.syncHead.producer = s.producer := rfl
@[simp] theorem State.syncHead_consumer (s : State) : s.syncHead.consumer = s.consumer := rfl
@[simp] theorem State.syncHead_out (s : State) : s.syncHead.out = s.out := rfl
@[simp] theorem State.syncHead_active (s : State) : s.syncHead.active = s.active := rfl
@[simp] theorem State.syncHead_sched (s : State) : s.syncHead.sched = s.sched := rfl
@[simp] theorem State.syncHead_tick (s : State) : s.syncHead.tick = s.tick := rfl
@[simp] theorem State.syncHead_q (s : State) : s.syncHead.q = s.q.syncHead s.cfg.capacity := rfl
@[simp] theorem State.syncHead_vm (s : State) (v : VmId) : s.syncHead.vm v = s.vm v := by cases v <;> rfl
@[simp] theorem State.syncTail_cfg (s : State) : s.syncTail.cfg = s.cfg := rfl
@[simp] theorem State.syncTail_producer (s : State) : s.syncTail.producer = s.producer := rfl
@[simp] theorem State.syncTail_consumer (s : State) : s.syncTail.consumer = s.consumer := rfl
@[simp] theorem State.syncTail_out (s : State) : s.syncTail.out = s.out := rfl
@[simp] theorem State.syncTail_active (s : State) : s.syncTail.active = s.active := rfl
@[simp] theorem State.syncTail_sched (s : State) : s.syncTail.sched = s.sched := rfl
@[simp] theorem State.syncTail_tick (s : State) : s.syncTail.tick = s.tick := rfl
@[simp] theorem State.syncTail_q (s : State) : s.syncTail.q = s.q.syncTail s.cfg.capacity := rfl
@[simp] theorem State.syncTail_vm (s : State) (v : VmId) : s.syncTail.vm v = s.vm v := by cases v <;> rfl

end Sys2Proof.Machine
end

