-- ==== Sys2Proof/Laws/Memory.lean ====
section
/-! SUPPORT. The laws of one instance's memory: a read after a write, and that every memory operation keeps the
canonical form. -/

namespace Sys2Proof.Machine

theorem Memory.wfFrom_mono {lo hi : Nat} (h : lo ≤ hi) {m : Memory} (hm : m.wfFrom hi = true) :
    m.wfFrom lo = true := by
  cases m with
  | nil => rfl
  | cons c m =>
    simp only [Memory.wfFrom, Bool.and_eq_true, decide_eq_true_eq] at hm ⊢
    exact ⟨⟨⟨h.trans hm.1.1.1, hm.1.1.2⟩, hm.1.2⟩, hm.2⟩

/-- Below a canonical memory's first address nothing is listed. -/
theorem Memory.lookup_below {m : Memory} {lo a : Nat} (hm : m.wfFrom lo = true) (h : a < lo) :
    m.lookup a = unlistedCell := by
  induction m generalizing lo with
  | nil => rfl
  | cons c m ih =>
    simp only [Memory.wfFrom, Bool.and_eq_true, decide_eq_true_eq] at hm
    simp only [Memory.lookup]
    rw [if_neg (by omega)]
    exact ih hm.2 (by omega)

theorem Memory.insert_wfFrom {m : Memory} {lo a : Nat} (v : Word) (hm : m.wfFrom lo = true) (hl : lo ≤ a)
    (ha : a < 65536) : (m.insert a v).wfFrom lo = true := by
  induction m generalizing lo with
  | nil =>
    simp only [Memory.insert]
    split
    · rfl
    · next hv => simp [Memory.wfFrom, hl, ha, hv]
  | cons c m ih =>
    simp only [Memory.wfFrom, Bool.and_eq_true, decide_eq_true_eq] at hm
    obtain ⟨⟨⟨h1, h2⟩, h3⟩, h4⟩ := hm
    simp only [Memory.insert]
    split
    · next hlt =>
      split
      · simp [Memory.wfFrom, h1, h2, h3, h4]
      · next hv =>
        simp [Memory.wfFrom, hl, ha, hv, h2, h3, h4]
        omega
    · split
      · next heq =>
        subst heq
        split
        · exact Memory.wfFrom_mono (by omega) h4
        · next hv => simp [Memory.wfFrom, hl, ha, hv, h4]
      · simp only [Memory.wfFrom, Bool.and_eq_true, decide_eq_true_eq]
        exact ⟨⟨⟨h1, h2⟩, h3⟩, ih h4 (by omega)⟩

theorem Memory.lookup_insert {m : Memory} {lo : Nat} (hm : m.wfFrom lo = true) (a b : Nat) (v : Word) :
    (m.insert a v).lookup b = if b = a then v else m.lookup b := by
  induction m generalizing lo with
  | nil =>
    simp only [Memory.insert]
    split
    · next hv => simp [Memory.lookup, hv]
    · simp [Memory.lookup]
  | cons c m ih =>
    simp only [Memory.wfFrom, Bool.and_eq_true, decide_eq_true_eq] at hm
    obtain ⟨⟨⟨h1, h2⟩, h3⟩, h4⟩ := hm
    simp only [Memory.insert]
    split
    · next hlt =>
      split
      · next hv =>
        simp only [Memory.lookup]
        by_cases hb : b = a
        · subst hb
          rw [if_neg (by omega), if_pos rfl, hv]
          exact Memory.lookup_below h4 (by omega)
        · rw [if_neg hb]
      · simp only [Memory.lookup]
    · split
      · next heq =>
        subst heq
        split
        · next hv =>
          simp only [Memory.lookup]
          by_cases hb : b = c.1
          · subst hb
            rw [if_pos rfl, hv]
            exact Memory.lookup_below h4 (by omega)
          · rw [if_neg hb, if_neg hb]
        · simp only [Memory.lookup]
          split <;> rfl
      · next hne =>
        simp only [Memory.lookup, ih h4]
        by_cases hb : b = c.1
        · rw [if_pos hb, if_pos hb, if_neg (by omega)]
        · rw [if_neg hb, if_neg hb]

/-- A write keeps the canonical form. -/
theorem Memory.write_wf {m : Memory} (a v : Word) (hm : m.wf = true) : (m.write a v).wf = true :=
  Memory.insert_wfFrom v hm (Nat.zero_le _) a.isLt

/-- A read after a write: the written cell gives the written word, every other cell what it gave before. -/
theorem Memory.read_write {m : Memory} (hm : m.wf = true) (a b v : Word) :
    (m.write a v).read b = if b = a then v else m.read b := by
  simp only [Memory.read, Memory.write, Memory.lookup_insert hm, BitVec.toNat_inj]

theorem Memory.writeAll_wf {m : Memory} (a : Word) (ws : List Word) (hm : m.wf = true) :
    (m.writeAll a ws).wf = true := by
  induction ws generalizing m a with
  | nil => exact hm
  | cons w ws ih => exact ih _ (Memory.write_wf a w hm)

end Sys2Proof.Machine
end

