-- ==== Sys2Proof/Laws/Ring.lean ====
section
/-! SUPPORT. The laws of the ring buffer: what each operation can do, and that each keeps the invariant of R130. -/

namespace Sys2Proof.Machine

/-- Everything `push` can do (R122). -/
theorem Ring.push_cases (n : Nat) (q : Ring) (v : Word) :
    ((q.head + 1) % n = q.tailP ∧ q.push n v = none) ∨
    ((q.head + 1) % n ≠ q.tailP ∧
      q.push n v = some { q with buffer := q.buffer.set q.head (some v), head := (q.head + 1) % n }) := by
  by_cases h : (q.head + 1) % n = q.tailP <;> simp [Ring.push, h]

/-- Everything `pop` can do (R124). -/
theorem Ring.pop_cases (n : Nat) (q : Ring) :
    (q.headC = q.tail ∧ q.pop n = .empty) ∨
    (q.headC ≠ q.tail ∧ ∃ v, q.slot q.tail = some v ∧ q.pop n = .value v { q with tail := (q.tail + 1) % n }) ∨
    (q.headC ≠ q.tail ∧ q.slot q.tail = none ∧ q.pop n = .unwritten) := by
  by_cases h : q.headC = q.tail
  · simp [Ring.pop, h]
  · rcases hb : q.buffer[q.tail]? with _ | (_ | v) <;> simp [Ring.pop, Ring.slot, h, hb]

/-- A sum of two numbers below `n`, reduced modulo `n`. -/
theorem add_sub_mod {n a b : Nat} (ha : a < n) (hb : b < n) :
    (a + n - b) % n = if b ≤ a then a - b else a + n - b := by
  split
  · rw [show a + n - b = (a - b) + n by omega, Nat.add_mod_right, Nat.mod_eq_of_lt (by omega)]
  · rw [Nat.mod_eq_of_lt (by omega)]

theorem succ_mod {n a : Nat} (ha : a < n) : (a + 1) % n = if a + 1 = n then 0 else a + 1 := by
  split
  · next h => rw [h, Nat.mod_self]
  · rw [Nat.mod_eq_of_lt (by omega)]

theorem add_mod_lt {n a b : Nat} (ha : a < n) (hb : b ≤ n) : (a + b) % n = if a + b < n then a + b else a + b - n := by
  split
  · next h => rw [Nat.mod_eq_of_lt h]
  · have e : (a + b - n + n) % n = a + b - n := by rw [Nat.add_mod_right, Nat.mod_eq_of_lt (by omega)]
    rwa [show a + b - n + n = a + b by omega] at e

namespace Ring.Inv

variable {n : Nat} {q : Ring}

theorem pos (h : q.Inv n) : 0 < n := Nat.lt_of_le_of_lt (Nat.zero_le _) h.head_lt

theorem count_lt (h : q.Inv n) : q.count n < n := Nat.mod_lt _ h.pos

/-- The number of outstanding items is the distance between the two indices (R130 (c)). -/
theorem count_add (h : q.Inv n) : q.dist n q.tail + q.count n = q.dist n q.head := by
  have h1 := h.tail_le_headC
  have h2 := h.headC_le_head
  have a := h.head_lt
  have b := h.tail_lt
  have c := h.tailP_lt
  have d := h.headC_lt
  simp only [Ring.dist, Ring.count, add_sub_mod a b, add_sub_mod a c, add_sub_mod b c, add_sub_mod d c] at *
  split_ifs at * <;> omega

/-- Where the consumer sees an item there is one (R131). -/
theorem count_pos (h : q.Inv n) (hne : q.headC ≠ q.tail) : 0 < q.count n := by
  have h1 := h.tail_le_headC
  have h2 := h.headC_le_head
  have a := h.head_lt
  have b := h.tail_lt
  have c := h.tailP_lt
  have d := h.headC_lt
  simp only [Ring.dist, Ring.count, add_sub_mod a b, add_sub_mod a c, add_sub_mod b c, add_sub_mod d c] at *
  split_ifs at * <;> omega

/-- Where the producer sees room there is some (R131). -/
theorem count_room (h : q.Inv n) (hne : (q.head + 1) % n ≠ q.tailP) : q.count n + 1 < n := by
  have h1 := h.tail_le_headC
  have h2 := h.headC_le_head
  have a := h.head_lt
  have b := h.tail_lt
  have c := h.tailP_lt
  have d := h.headC_lt
  rw [succ_mod a] at hne
  simp only [Ring.dist, Ring.count, add_sub_mod a b, add_sub_mod a c, add_sub_mod b c, add_sub_mod d c] at *
  split_ifs at * <;> omega

theorem oldest_written (h : q.Inv n) (hne : q.headC ≠ q.tail) : ∃ v, q.slot q.tail = some v := by
  have := h.written 0 (h.count_pos hne)
  rw [Nat.add_zero, Nat.mod_eq_of_lt h.tail_lt] at this
  exact Option.isSome_iff_exists.mp this

end Ring.Inv

/-- The ring after a successful push. -/
def Ring.pushed (n : Nat) (q : Ring) (v : Word) : Ring :=
  { q with buffer := q.buffer.set q.head (some v), head := (q.head + 1) % n }

/-- The ring after a successful pop. -/
def Ring.popped (n : Nat) (q : Ring) : Ring := { q with tail := (q.tail + 1) % n }

theorem Ring.slot_set {q : Ring} {i j : Nat} {v : Word} (hi : i < q.buffer.length) :
    ({ q with buffer := q.buffer.set i (some v), head := j } : Ring).slot i = some v := by
  simp [Ring.slot, hi]

theorem Ring.slot_set_ne {q : Ring} {i j k : Nat} {v : Word} (h : k ≠ i) :
    ({ q with buffer := q.buffer.set i (some v), head := j } : Ring).slot k = q.slot k := by
  simp [Ring.slot, List.getElem?_set_ne (Ne.symm h)]

namespace Ring.Inv

variable {n : Nat} {q : Ring}

theorem pushed_count (h : q.Inv n) (hne : (q.head + 1) % n ≠ q.tailP) (v : Word) :
    (q.pushed n v).count n = q.count n + 1 := by
  have room := h.count_room hne
  have a := h.head_lt
  have b := h.tail_lt
  have a' : (q.head + 1) % n < n := Nat.mod_lt _ h.pos
  simp only [Ring.pushed, Ring.count] at *
  rw [add_sub_mod a' b]
  rw [add_sub_mod a b] at room ⊢
  rw [succ_mod a]
  split_ifs at * <;> omega

theorem popped_count (h : q.Inv n) (hne : q.headC ≠ q.tail) :
    (q.popped n).count n + 1 = q.count n := by
  have room := h.count_pos hne
  have a := h.head_lt
  have b := h.tail_lt
  have b' : (q.tail + 1) % n < n := Nat.mod_lt _ h.pos
  simp only [Ring.popped, Ring.count] at *
  rw [add_sub_mod a b']
  rw [add_sub_mod a b] at room ⊢
  rw [succ_mod b]
  split_ifs at * <;> omega

/-- The head stands one past the outstanding slots. -/
theorem head_eq (h : q.Inv n) : q.head = (q.tail + q.count n) % n := by
  have a := h.head_lt
  have b := h.tail_lt
  rw [add_mod_lt b (Nat.le_of_lt h.count_lt)]
  simp only [Ring.count, add_sub_mod a b]
  split_ifs <;> omega

/-- The slots of two different outstanding positions differ. -/
theorem slot_index_inj (h : q.Inv n) {i j : Nat} (hi : i < n) (hj : j < n)
    (e : (q.tail + i) % n = (q.tail + j) % n) : i = j := by
  have b := h.tail_lt
  rw [add_mod_lt b (Nat.le_of_lt hi), add_mod_lt b (Nat.le_of_lt hj)] at e
  split_ifs at e <;> omega

theorem push (h : q.Inv n) (hne : (q.head + 1) % n ≠ q.tailP) (v : Word) : (q.pushed n v).Inv n := by
  have hc := h.pushed_count hne v
  have room := h.count_room hne
  have a := h.head_lt
  have b := h.tail_lt
  have c := h.tailP_lt
  have d := h.headC_lt
  have a' : (q.head + 1) % n < n := Nat.mod_lt _ h.pos
  refine ⟨by simp [Ring.pushed, h.slots], a', b, c, d, h.tail_le_headC, ?_, ?_⟩
  · have h2 := h.headC_le_head
    simp only [Ring.pushed, Ring.dist] at *
    rw [add_sub_mod d c] at *
    rw [add_sub_mod a' c]
    rw [add_sub_mod a c] at h2
    rw [succ_mod a] at *
    split_ifs at * <;> omega
  · intro j hj
    rw [hc] at hj
    simp only [Ring.pushed]
    by_cases e : j = q.count n
    · rw [e, ← h.head_eq, Ring.slot_set (by rw [h.slots]; exact a)]
      rfl
    · rw [Ring.slot_set_ne]
      · exact h.written j (by omega)
      · rw [h.head_eq]
        exact fun e' => e (h.slot_index_inj (by omega) (by omega) e')

theorem pop (h : q.Inv n) (hne : q.headC ≠ q.tail) : (q.popped n).Inv n := by
  have hc := h.popped_count hne
  have a := h.head_lt
  have b := h.tail_lt
  have c := h.tailP_lt
  have d := h.headC_lt
  have b' : (q.tail + 1) % n < n := Nat.mod_lt _ h.pos
  refine ⟨h.slots, a, b', c, d, ?_, h.headC_le_head, ?_⟩
  · have h1 := h.tail_le_headC
    have h2 := h.headC_le_head
    simp only [Ring.popped, Ring.dist] at *
    rw [add_sub_mod b' c]
    rw [add_sub_mod d c] at *
    rw [add_sub_mod b c] at h1
    rw [succ_mod b] at *
    split_ifs at * <;> omega
  · intro j hj
    have := h.written (j + 1) (by omega)
    simp only [Ring.popped] at *
    rw [Nat.mod_add_mod, Nat.add_assoc, Nat.add_comm 1 j]
    exact this

theorem syncTail (h : q.Inv n) : (q.syncTail n).Inv n := by
  unfold Ring.syncTail
  split
  · next hne =>
    have a := h.head_lt
    have b := h.tail_lt
    have c := h.tailP_lt
    have d := h.headC_lt
    have c' : (q.tailP + 1) % n < n := Nat.mod_lt _ h.pos
    have h1 := h.tail_le_headC
    have h2 := h.headC_le_head
    refine ⟨h.slots, a, b, c', d, ?_, ?_, h.written⟩
    · simp only [Ring.dist] at *
      rw [add_sub_mod b c', add_sub_mod d c']
      rw [add_sub_mod d c] at *
      rw [add_sub_mod b c] at h1
      rw [succ_mod c] at *
      split_ifs at * <;> omega
    · simp only [Ring.dist] at *
      rw [add_sub_mod a c', add_sub_mod d c']
      rw [add_sub_mod d c] at *
      rw [add_sub_mod b c] at h1
      rw [add_sub_mod a c] at h2
      rw [succ_mod c] at *
      split_ifs at * <;> omega
  · exact h

theorem syncHead (h : q.Inv n) : (q.syncHead n).Inv n := by
  unfold Ring.syncHead
  split
  · next hne =>
    have a := h.head_lt
    have b := h.tail_lt
    have c := h.tailP_lt
    have d := h.headC_lt
    have d' : (q.headC + 1) % n < n := Nat.mod_lt _ h.pos
    have h1 := h.tail_le_headC
    have h2 := h.headC_le_head
    refine ⟨h.slots, a, b, c, d', ?_, ?_, h.written⟩
    · simp only [Ring.dist] at *
      rw [add_sub_mod d' c]
      rw [add_sub_mod d c] at *
      rw [add_sub_mod b c] at *
      rw [add_sub_mod a c] at h2
      rw [succ_mod d] at *
      split_ifs at * <;> omega
    · simp only [Ring.dist] at *
      rw [add_sub_mod d' c]
      rw [add_sub_mod d c] at *
      rw [add_sub_mod a c] at *
      rw [succ_mod d] at *
      split_ifs at * <;> omega
  · exact h

theorem syncAll (h : q.Inv n) : q.syncAll.Inv n := by
  have a := h.head_lt
  have b := h.tail_lt
  refine ⟨h.slots, a, b, b, a, ?_, Nat.le_refl _, h.written⟩
  have e : q.syncAll.dist n q.syncAll.tail = 0 := by
    simp only [Ring.syncAll, Ring.dist, add_sub_mod b b]
    simp
  rw [e]
  exact Nat.zero_le _

end Ring.Inv

/-! ### What a Sync step leaves alone (R126) -/

@[simp] theorem Ring.syncHead_buffer (n : Nat) (q : Ring) : (q.syncHead n).buffer = q.buffer := by
  unfold Ring.syncHead; split <;> rfl
@[simp] theorem Ring.syncHead_head (n : Nat) (q : Ring) : (q.syncHead n).head = q.head := by
  unfold Ring.syncHead; split <;> rfl
@[simp] theorem Ring.syncHead_tail (n : Nat) (q : Ring) : (q.syncHead n).tail = q.tail := by
  unfold Ring.syncHead; split <;> rfl
@[simp] theorem Ring.syncHead_tailP (n : Nat) (q : Ring) : (q.syncHead n).tailP = q.tailP := by
  unfold Ring.syncHead; split <;> rfl
@[simp] theorem Ring.syncTail_buffer (n : Nat) (q : Ring) : (q.syncTail n).buffer = q.buffer := by
  unfold Ring.syncTail; split <;> rfl
@[simp] theorem Ring.syncTail_head (n : Nat) (q : Ring) : (q.syncTail n).head = q.head := by
  unfold Ring.syncTail; split <;> rfl
@[simp] theorem Ring.syncTail_tail (n : Nat) (q : Ring) : (q.syncTail n).tail = q.tail := by
  unfold Ring.syncTail; split <;> rfl
@[simp] theorem Ring.syncTail_headC (n : Nat) (q : Ring) : (q.syncTail n).headC = q.headC := by
  unfold Ring.syncTail; split <;> rfl

/-- How many items are outstanding depends on the two true indices only (R25). -/
theorem Ring.count_congr {n : Nat} {q q' : Ring} (h : q'.head = q.head) (t : q'.tail = q.tail) :
    q'.count n = q.count n := by simp [Ring.count, h, t]

/-- The ring as constructed meets the invariant (R130, R143). -/
theorem Ring.reset_inv {n : Nat} (h : 0 < n) : (Ring.reset n).Inv n := by
  refine ⟨by simp [Ring.reset], h, h, h, h, Nat.le_refl _, Nat.le_refl _, ?_⟩
  intro j hj
  simp [Ring.reset, Ring.count] at hj

end Sys2Proof.Machine
end

