-- ==== Sys2Proof/Laws/Ops.lean ====
section
/-! SUPPORT. What the shared operations can do, said once each: the attempts of SEND and RECV, and the
instructions that touch only the executing instance. -/

namespace Sys2Proof.Machine

/-! ### The attempts -/

/-- The state in which the executing instance is the producer and sees what R135 lets it see. -/
def State.bindPush (s : State) : State := ({ s with producer := some s.active } : State).refreshViews

/-- The state in which the executing instance is the consumer and sees what R135 lets it see. -/
def State.bindPop (s : State) : State := ({ s with consumer := some s.active } : State).refreshViews

/-- How a SEND completes (R206). -/
def Vm.sendDone (x : Vm) : Vm := (x.countSent.setPend .none).count

/-- How a RECV of the value `v` completes (R207). -/
def Vm.recvDone (v : Word) (x : Vm) : Vm :=
  (((x.setReg 0 v).setCond (condOf v)).countReceived.setPend .none).count

theorem State.refreshViews_q (s : State) :
    s.refreshViews.q = if s.producer = some s.active ∧ s.consumer = some s.active then s.q.syncAll else s.q := by
  unfold State.refreshViews; split <;> rfl

theorem State.bindPush_q (s : State) :
    s.bindPush.q = if s.consumer = some s.active then s.q.syncAll else s.q := by
  simp [State.bindPush, State.refreshViews_q]

theorem State.bindPop_q (s : State) :
    s.bindPop.q = if s.producer = some s.active then s.q.syncAll else s.q := by
  simp [State.bindPop, State.refreshViews_q]

theorem State.refreshViews_eq (s : State) : s.refreshViews = { s with q := s.refreshViews.q } := by
  unfold State.refreshViews; split <;> rfl

theorem State.bindPush_eq (s : State) :
    s.bindPush = { s with producer := some s.active, q := s.bindPush.q } := by
  unfold State.bindPush; rw [State.refreshViews_eq]

theorem State.bindPop_eq (s : State) : s.bindPop = { s with consumer := some s.active, q := s.bindPop.q } := by
  unfold State.bindPop; rw [State.refreshViews_eq]

@[simp] theorem State.bindPush_cfg (s : State) : s.bindPush.cfg = s.cfg := by rw [State.bindPush_eq]
@[simp] theorem State.bindPush_producer (s : State) : s.bindPush.producer = some s.active := by
  rw [State.bindPush_eq]
@[simp] theorem State.bindPush_consumer (s : State) : s.bindPush.consumer = s.consumer := by rw [State.bindPush_eq]
@[simp] theorem State.bindPush_out (s : State) : s.bindPush.out = s.out := by rw [State.bindPush_eq]
@[simp] theorem State.bindPush_active (s : State) : s.bindPush.active = s.active := by rw [State.bindPush_eq]
@[simp] theorem State.bindPush_sched (s : State) : s.bindPush.sched = s.sched := by rw [State.bindPush_eq]
@[simp] theorem State.bindPush_tick (s : State) : s.bindPush.tick = s.tick := by rw [State.bindPush_eq]
@[simp] theorem State.bindPush_vm (s : State) (v : VmId) : s.bindPush.vm v = s.vm v := by
  rw [State.bindPush_eq]; cases v <;> rfl
@[simp] theorem State.bindPush_cur (s : State) : s.bindPush.cur = s.cur := by
  simp [← State.vm_active]
@[simp] theorem State.bindPush_head (s : State) : s.bindPush.q.head = s.q.head := by
  rw [State.bindPush_q]; split <;> rfl
@[simp] theorem State.bindPush_tailP (s : State) : s.bindPush.q.tailP = s.seenTail := by
  rw [State.bindPush_q, State.seenTail]; split <;> rfl
@[simp] theorem State.bindPush_tail (s : State) : s.bindPush.q.tail = s.q.tail := by
  rw [State.bindPush_q]; split <;> rfl
@[simp] theorem State.bindPush_buffer (s : State) : s.bindPush.q.buffer = s.q.buffer := by
  rw [State.bindPush_q]; split <;> rfl

@[simp] theorem State.bindPop_cfg (s : State) : s.bindPop.cfg = s.cfg := by rw [State.bindPop_eq]
@[simp] theorem State.bindPop_producer (s : State) : s.bindPop.producer = s.producer := by rw [State.bindPop_eq]
@[simp] theorem State.bindPop_consumer (s : State) : s.bindPop.consumer = some s.active := by
  rw [State.bindPop_eq]
@[simp] theorem State.bindPop_out (s : State) : s.bindPop.out = s.out := by rw [State.bindPop_eq]
@[simp] theorem State.bindPop_active (s : State) : s.bindPop.active = s.active := by rw [State.bindPop_eq]
@[simp] theorem State.bindPop_sched (s : State) : s.bindPop.sched = s.sched := by rw [State.bindPop_eq]
@[simp] theorem State.bindPop_tick (s : State) : s.bindPop.tick = s.tick := by rw [State.bindPop_eq]
@[simp] theorem State.bindPop_vm (s : State) (v : VmId) : s.bindPop.vm v = s.vm v := by
  rw [State.bindPop_eq]; cases v <;> rfl
@[simp] theorem State.bindPop_cur (s : State) : s.bindPop.cur = s.cur := by
  simp [← State.vm_active]
@[simp] theorem State.bindPop_tail (s : State) : s.bindPop.q.tail = s.q.tail := by
  rw [State.bindPop_q]; split <;> rfl
@[simp] theorem State.bindPop_head (s : State) : s.bindPop.q.head = s.q.head := by
  rw [State.bindPop_q]; split <;> rfl
@[simp] theorem State.bindPop_headC (s : State) : s.bindPop.q.headC = s.seenHead := by
  rw [State.bindPop_q, State.seenHead]; split <;> rfl
@[simp] theorem State.bindPop_buffer (s : State) : s.bindPop.q.buffer = s.q.buffer := by
  rw [State.bindPop_q]; split <;> rfl
@[simp] theorem State.bindPop_slot (s : State) (i : Nat) : s.bindPop.q.slot i = s.q.slot i := by
  simp [Ring.slot]

theorem State.claimPush_of_mayPush {s : State} (h : s.mayPush) :
    s.claimPush = some { s with producer := some s.active } := by
  rcases h with h | h <;> simp only [State.claimPush, h]
  simp only [if_true, ← h]

theorem State.claimPush_of_not_mayPush {s : State} (h : ¬ s.mayPush) : s.claimPush = none := by
  unfold State.mayPush at h
  rcases e : s.producer with _ | v
  · simp [e] at h
  · have : v ≠ s.active := fun e' => h (Or.inr (by rw [e, e']))
    simp [State.claimPush, e, this]

theorem State.claimPop_of_mayPop {s : State} (h : s.mayPop) :
    s.claimPop = some { s with consumer := some s.active } := by
  rcases h with h | h <;> simp only [State.claimPop, h]
  simp only [if_true, ← h]

theorem State.claimPop_of_not_mayPop {s : State} (h : ¬ s.mayPop) : s.claimPop = none := by
  unfold State.mayPop at h
  rcases e : s.consumer with _ | v
  · simp [e] at h
  · have : v ≠ s.active := fun e' => h (Or.inr (by rw [e, e']))
    simp [State.claimPop, e, this]

/-- Everything one attempt of SEND can do (R127, R206). -/
theorem State.attemptSend_cases (s : State) :
    (¬ s.mayPush ∧ s.attemptSend = .fault (.spscViolation s.active .push)) ∨
    (s.mayPush ∧ (s.q.head + 1) % s.cfg.capacity = s.seenTail ∧ s.attemptSend = .next s.bindPush) ∨
    (s.mayPush ∧ (s.q.head + 1) % s.cfg.capacity ≠ s.seenTail ∧
      s.attemptSend = .next ((s.bindPush.setRing
        (s.bindPush.q.pushed s.cfg.capacity (s.cur.reg 0))).updCur Vm.sendDone)) := by
  by_cases h : s.mayPush
  · right
    have e : s.attemptSend = match s.bindPush.q.push s.bindPush.cfg.capacity (s.bindPush.readReg 0) with
        | none => .next s.bindPush
        | some q' => .next ((s.bindPush.setRing q').updCur Vm.sendDone) := by
      simp only [State.attemptSend, State.claimPush_of_mayPush h]; rfl
    rw [e]
    rcases Ring.push_cases s.bindPush.cfg.capacity s.bindPush.q (s.bindPush.readReg 0) with ⟨hf, hp⟩ | ⟨hf, hp⟩
    · left
      rw [hp]
      exact ⟨h, by simpa using hf, rfl⟩
    · right
      rw [hp]
      exact ⟨h, by simpa using hf, by simp [Ring.pushed]⟩
  · left
    exact ⟨h, by simp [State.attemptSend, State.claimPush_of_not_mayPush h]⟩

/-- Everything one attempt of RECV can do (R127, R207). -/
theorem State.attemptRecv_cases (s : State) :
    (¬ s.mayPop ∧ s.attemptRecv = .fault (.spscViolation s.active .pop)) ∨
    (s.mayPop ∧ s.seenHead = s.q.tail ∧ s.attemptRecv = .next (s.bindPop.updCur Vm.countSpin)) ∨
    (s.mayPop ∧ s.seenHead ≠ s.q.tail ∧ ∃ v, s.q.slot s.q.tail = some v ∧
      s.attemptRecv = .next ((s.bindPop.setRing (s.bindPop.q.popped s.cfg.capacity)).updCur (Vm.recvDone v))) ∨
    (s.mayPop ∧ s.seenHead ≠ s.q.tail ∧ s.q.slot s.q.tail = none ∧ s.attemptRecv = .fault .unwrittenSlot) := by
  by_cases h : s.mayPop
  · right
    have e : s.attemptRecv = match s.bindPop.q.pop s.bindPop.cfg.capacity with
        | .empty => .next (s.bindPop.updCur Vm.countSpin)
        | .value v q' => .next ((((s.bindPop.setRing q').writeReg 0 v).setcc v).updCur
            fun x => (x.countReceived.setPend .none).count)
        | .unwritten => .fault .unwrittenSlot := by
      simp only [State.attemptRecv, State.claimPop_of_mayPop h]; rfl
    rw [e]
    rcases Ring.pop_cases s.bindPop.cfg.capacity s.bindPop.q with ⟨hf, hp⟩ | ⟨hf, v, hv, hp⟩ | ⟨hf, hv, hp⟩
    · left
      rw [hp]
      exact ⟨h, by simpa using hf, rfl⟩
    · right; left
      rw [hp]
      refine ⟨h, by simpa using hf, v, by simpa using hv, ?_⟩
      simp only [State.writeReg_eq, State.setcc_eq, State.updCur_updCur, State.bindPop_cfg]
      rfl
    · right; right
      rw [hp]
      exact ⟨h, by simpa using hf, by simpa using hv, rfl⟩
  · left
    exact ⟨h, by simp [State.attemptRecv, State.claimPop_of_not_mayPop h]⟩

/-- An instance that pushes reads its view at the invariant's limits (R130, R135). -/
theorem State.bindPush_inv {s : State} {n : Nat} (h : s.q.Inv n) : s.bindPush.q.Inv n := by
  rw [State.bindPush_q]; split
  · exact h.syncAll
  · exact h

theorem State.bindPop_inv {s : State} {n : Nat} (h : s.q.Inv n) : s.bindPop.q.Inv n := by
  rw [State.bindPop_q]; split
  · exact h.syncAll
  · exact h

@[simp] theorem State.bindPush_count (s : State) (n : Nat) : s.bindPush.q.count n = s.q.count n := by
  simp [Ring.count]

@[simp] theorem State.bindPop_count (s : State) (n : Nat) : s.bindPop.q.count n = s.q.count n := by
  simp [Ring.count]

/-- An attempt of SEND leaves the parameters, the turns and the other instance alone. -/
theorem State.attemptSend_rest {s t : State} (h : s.attemptSend = .next t) : s.RestKept t := by
  rcases State.attemptSend_cases s with ⟨_, e⟩ | ⟨_, _, e⟩ | ⟨_, _, e⟩ <;> rw [e] at h <;> cases h <;>
    simp [State.RestKept]

/-- An attempt of RECV leaves the parameters, the turns and the other instance alone. -/
theorem State.attemptRecv_rest {s t : State} (h : s.attemptRecv = .next t) : s.RestKept t := by
  rcases State.attemptRecv_cases s with ⟨_, e⟩ | ⟨_, _, e⟩ | ⟨_, _, v, _, e⟩ | ⟨_, _, _, e⟩ <;> rw [e] at h <;>
    cases h <;> simp [State.RestKept]

/-! ### The instructions that touch only the executing instance -/

/-- What every instruction but SEND and RECV leaves alone, and that it is counted (R154). -/
structure State.Local (s t : State) : Prop where
  rest : s.RestKept t
  ring : s.RingKept t
  counted : s.cur.Counted t.cur
  pend : t.cur.pend = s.cur.pend
  memory : t.cur.mem = s.cur.mem ∨ ∃ a v, t.cur.mem = s.cur.mem.write a v

theorem State.Local.updCur {s : State} {f : Vm → Vm} (hc : s.cur.Counted (f s.cur))
    (hp : (f s.cur).pend = s.cur.pend)
    (hm : (f s.cur).mem = s.cur.mem ∨ ∃ a v, (f s.cur).mem = s.cur.mem.write a v) :
    s.Local (s.updCur f) :=
  ⟨by simp [State.RestKept], by simp [State.RingKept], by simpa using hc, by simpa using hp, by simpa using hm⟩

/-- A word that no instruction claims does what the parameter `UNRECOGNIZED` says (R42). -/
theorem exec_unclaimed {i : Instr} (h : unclaimed i = true) (s : State) : exec i s = s.unrecognised := by
  cases i <;> first | rfl | cases h

/-- Everything an instruction that claims its words, SEND and RECV apart, can do to what it does not own: nothing
(R160). -/
theorem exec_claimed (i : Instr) (s : State) (hs : i ≠ .trapSend) (hr : i ≠ .trapRecv) (hc : unclaimed i = false) :
    ∃ t, exec i s = .next t ∧ s.Local t := by
  cases i with
  | trapSend => exact absurd rfl hs
  | trapRecv => exact absurd rfl hr
  | trapOut =>
    refine ⟨_, rfl, ?_⟩
    by_cases h : s.cfg.trapSavesR7 = true <;>
      constructor <;> simp [State.RestKept, State.RingKept, Vm.Counted, h]
  | st sr off9 =>
    exact ⟨_, rfl, State.Local.updCur (f := fun x => (x.store _ _).count) (by simp [Vm.Counted]) rfl
      (Or.inr ⟨_, _, rfl⟩) |> fun h => by simpa using h⟩
  | ld dr off9 =>
    refine ⟨_, rfl, ?_⟩
    by_cases h : s.cfg.ldSetsCC = true <;>
      constructor <;> simp [State.RestKept, State.RingKept, Vm.Counted, h]
  | trapHalt =>
    refine ⟨_, rfl, ?_⟩
    by_cases h : s.cfg.trapSavesR7 = true <;>
      constructor <;> simp [State.RestKept, State.RingKept, Vm.Counted, h]
  | trapOther _ => cases hc
  | unrec6 => cases hc
  | unrec7 => cases hc
  | unrec8 => cases hc
  | unrecA => cases hc
  | unrecB => cases hc
  | unrecD => cases hc
  | unrecE => cases hc
  | _ =>
    refine ⟨_, rfl, ?_⟩
    constructor <;> simp [State.RestKept, State.RingKept, Vm.Counted]

/-- Everything an instruction other than SEND and RECV can do: it goes on and touches nothing that it does not own
(R160), or it stands for an unrecognised word and `UNRECOGNIZED` is `refuse` (R42). -/
theorem exec_local (i : Instr) (s : State) (hs : i ≠ .trapSend) (hr : i ≠ .trapRecv) :
    (∃ t, exec i s = .next t ∧ s.Local t) ∨
    (unclaimed i = true ∧ s.cfg.unrecognized = .refuse ∧ exec i s = .refused .unrecognisedWord) := by
  rcases hc : unclaimed i
  · exact .inl (exec_claimed i s hs hr hc)
  · rw [exec_unclaimed hc]
    rcases hu : s.cfg.unrecognized
    · rw [State.unrecognised_nop hu]
      exact .inl ⟨_, rfl, State.Local.updCur (by simp [Vm.Counted]) rfl (.inl rfl)⟩
    · exact .inr ⟨rfl, rfl, State.unrecognised_refuse hu⟩

/-- What an instruction other than SEND and RECV that goes on leaves alone. -/
theorem exec_next_local {i : Instr} {s t : State} (hs : i ≠ .trapSend) (hr : i ≠ .trapRecv)
    (h : exec i s = .next t) : s.Local t := by
  rcases exec_local i s hs hr with ⟨t', e, hl⟩ | ⟨_, _, e⟩ <;> rw [e] at h <;> cases h
  exact hl

/-- Every instruction leaves the parameters, the turns and the other instance alone (R71). -/
theorem exec_rest {i : Instr} {s t : State} (h : exec i s = .next t) : s.RestKept t := by
  by_cases hs : i = .trapSend
  · subst hs
    have := State.attemptSend_rest (s := s.trapEntry.updCur (·.setPend .send)) h
    simpa [State.RestKept] using this
  by_cases hr : i = .trapRecv
  · subst hr
    have := State.attemptRecv_rest (s := s.trapEntry.updCur (·.setPend .recv)) h
    simpa [State.RestKept] using this
  exact (exec_next_local hs hr h).rest

end Sys2Proof.Machine
end

