-- ==== Sys2Proof/Laws/PerInstr.lean ====
section
/-! SUPPORT. Statements about every instruction as syntax, one lemma per constructor. -/

open Sys2Proof.Machine

/-! ### OpcodeField: the encoder puts the opcode number of R92 into bits 15:12 -/

/-- The opcode number of an instruction, from the table of R92. -/
def Sys2Proof.Laws.OpcodeField.number : Sys2Proof.Instr → Nat
  | .br _ _ => 0x0
  | .addReg _ _ _ => 0x1
  | .addImm _ _ _ => 0x1
  | .andReg _ _ _ => 0x5
  | .andImm _ _ _ => 0x5
  | .not _ _ => 0x9
  | .ld _ _ => 0x2
  | .st _ _ => 0x3
  | .jsr _ => 0x4
  | .jmp _ => 0xC
  | .trapOut => 0xF
  | .trapHalt => 0xF
  | .trapSend => 0xF
  | .trapRecv => 0xF
  | .trapOther _ => 0xF
  | .unrec6 => 0x6
  | .unrec7 => 0x7
  | .unrec8 => 0x8
  | .unrecA => 0xA
  | .unrecB => 0xB
  | .unrecD => 0xD
  | .unrecE => 0xE

/-- R91, R92: bits 15:12 of an instruction's word are its opcode number. -/
def Sys2Proof.Laws.OpcodeField.Statement (i : Sys2Proof.Instr) : Prop :=
  wordBits (Sys2Proof.encode i) 15 12 = Sys2Proof.Laws.OpcodeField.number i

theorem Sys2Proof.Laws.opcodeField_every (i : Sys2Proof.Instr) : Sys2Proof.Laws.OpcodeField.Statement i := by
  cases i <;> simp only [OpcodeField.Statement, OpcodeField.number, wordBits, encode_br_toNat, encode_addReg_toNat,
    encode_addImm_toNat, encode_andReg_toNat, encode_andImm_toNat, encode_not_toNat, encode_ld_toNat,
    encode_st_toNat, encode_jsr_toNat, encode_jmp_toNat, encode_trapOther_toNat] <;> first | omega | decide

theorem Sys2Proof.Laws.OpcodeField.br (mask : BitVec 3) (off9 : BitVec 9) : Sys2Proof.Laws.OpcodeField.Statement (.br mask off9) :=
  Sys2Proof.Laws.opcodeField_every _

theorem Sys2Proof.Laws.OpcodeField.addReg (dr sr1 sr2 : Sys2Proof.RegId) : Sys2Proof.Laws.OpcodeField.Statement (.addReg dr sr1 sr2) :=
  Sys2Proof.Laws.opcodeField_every _

theorem Sys2Proof.Laws.OpcodeField.addImm (dr sr1 : Sys2Proof.RegId) (imm5 : BitVec 5) : Sys2Proof.Laws.OpcodeField.Statement (.addImm dr sr1 imm5) :=
  Sys2Proof.Laws.opcodeField_every _

theorem Sys2Proof.Laws.OpcodeField.andReg (dr sr1 sr2 : Sys2Proof.RegId) : Sys2Proof.Laws.OpcodeField.Statement (.andReg dr sr1 sr2) :=
  Sys2Proof.Laws.opcodeField_every _

theorem Sys2Proof.Laws.OpcodeField.andImm (dr sr1 : Sys2Proof.RegId) (imm5 : BitVec 5) : Sys2Proof.Laws.OpcodeField.Statement (.andImm dr sr1 imm5) :=
  Sys2Proof.Laws.opcodeField_every _

theorem Sys2Proof.Laws.OpcodeField.not (dr sr : Sys2Proof.RegId) : Sys2Proof.Laws.OpcodeField.Statement (.not dr sr) :=
  Sys2Proof.Laws.opcodeField_every _

theorem Sys2Proof.Laws.OpcodeField.ld (dr : Sys2Proof.RegId) (off9 : BitVec 9) : Sys2Proof.Laws.OpcodeField.Statement (.ld dr off9) :=
  Sys2Proof.Laws.opcodeField_every _

theorem Sys2Proof.Laws.OpcodeField.st (sr : Sys2Proof.RegId) (off9 : BitVec 9) : Sys2Proof.Laws.OpcodeField.Statement (.st sr off9) :=
  Sys2Proof.Laws.opcodeField_every _

theorem Sys2Proof.Laws.OpcodeField.jsr (off11 : BitVec 11) : Sys2Proof.Laws.OpcodeField.Statement (.jsr off11) :=
  Sys2Proof.Laws.opcodeField_every _

theorem Sys2Proof.Laws.OpcodeField.jmp (baseR : Sys2Proof.RegId) : Sys2Proof.Laws.OpcodeField.Statement (.jmp baseR) :=
  Sys2Proof.Laws.opcodeField_every _

theorem Sys2Proof.Laws.OpcodeField.trapOut : Sys2Proof.Laws.OpcodeField.Statement .trapOut :=
  Sys2Proof.Laws.opcodeField_every _

theorem Sys2Proof.Laws.OpcodeField.trapHalt : Sys2Proof.Laws.OpcodeField.Statement .trapHalt :=
  Sys2Proof.Laws.opcodeField_every _

theorem Sys2Proof.Laws.OpcodeField.trapSend : Sys2Proof.Laws.OpcodeField.Statement .trapSend :=
  Sys2Proof.Laws.opcodeField_every _

theorem Sys2Proof.Laws.OpcodeField.trapRecv : Sys2Proof.Laws.OpcodeField.Statement .trapRecv :=
  Sys2Proof.Laws.opcodeField_every _

theorem Sys2Proof.Laws.OpcodeField.trapOther (vect8 : BitVec 8) : Sys2Proof.Laws.OpcodeField.Statement (.trapOther vect8) :=
  Sys2Proof.Laws.opcodeField_every _

theorem Sys2Proof.Laws.OpcodeField.unrec6 : Sys2Proof.Laws.OpcodeField.Statement .unrec6 :=
  Sys2Proof.Laws.opcodeField_every _

theorem Sys2Proof.Laws.OpcodeField.unrec7 : Sys2Proof.Laws.OpcodeField.Statement .unrec7 :=
  Sys2Proof.Laws.opcodeField_every _

theorem Sys2Proof.Laws.OpcodeField.unrec8 : Sys2Proof.Laws.OpcodeField.Statement .unrec8 :=
  Sys2Proof.Laws.opcodeField_every _

theorem Sys2Proof.Laws.OpcodeField.unrecA : Sys2Proof.Laws.OpcodeField.Statement .unrecA :=
  Sys2Proof.Laws.opcodeField_every _

theorem Sys2Proof.Laws.OpcodeField.unrecB : Sys2Proof.Laws.OpcodeField.Statement .unrecB :=
  Sys2Proof.Laws.opcodeField_every _

theorem Sys2Proof.Laws.OpcodeField.unrecD : Sys2Proof.Laws.OpcodeField.Statement .unrecD :=
  Sys2Proof.Laws.opcodeField_every _

theorem Sys2Proof.Laws.OpcodeField.unrecE : Sys2Proof.Laws.OpcodeField.Statement .unrecE :=
  Sys2Proof.Laws.opcodeField_every _
end

