-- ==== Sys2Proof/Laws/Step.lean ====
section
/-! SUPPORT. What one step of the machine can do, said once. -/

namespace Sys2Proof.Machine

@[simp] theorem State.turnOf_vm (s : State) (u v : VmId) : (s.turnOf u).vm v = s.vm v := by
  simp [State.turnOf]
@[simp] theorem State.turnOf_cur (s : State) (u : VmId) : (s.turnOf u).cur = s.vm u := by
  simp [State.turnOf]
@[simp] theorem State.turnOf_cfg (s : State) (u : VmId) : (s.turnOf u).cfg = s.cfg := rfl
@[simp] theorem State.turnOf_q (s : State) (u : VmId) : (s.turnOf u).q = s.q := rfl
@[simp] theorem State.turnOf_producer (s : State) (u : VmId) : (s.turnOf u).producer = s.producer := rfl
@[simp] theorem State.turnOf_consumer (s : State) (u : VmId) : (s.turnOf u).consumer = s.consumer := rfl
@[simp] theorem State.turnOf_out (s : State) (u : VmId) : (s.turnOf u).out = s.out := rfl
@[simp] theorem State.turnOf_active (s : State) (u : VmId) : (s.turnOf u).active = u := rfl
@[simp] theorem State.turnOf_sched (s : State) (u : VmId) : (s.turnOf u).sched = s.sched.tail := rfl
@[simp] theorem State.turnOf_tick (s : State) (u : VmId) : (s.turnOf u).tick = s.tick + 1 := rfl

/-- The state in which an instruction of instance `v` executes: its turn is taken and its pc incremented (R151). -/
def State.fetched (s : State) (v : VmId) : State := (s.turnOf v).advancePc

/-- The word that instance `v` fetches next (R151). -/
def State.wordAtPc (s : State) (v : VmId) : Word := (s.vm v).mem.read (s.vm v).pc

theorem step_syncHead {s : State} (h : s.turn = .syncHead) : step s = .next s.takeTurn.syncHead := by
  simp [step, h]

theorem step_syncTail {s : State} (h : s.turn = .syncTail) : step s = .next s.takeTurn.syncTail := by
  simp [step, h]

theorem step_abort {s : State} (h : s.turn = .abort) : step s = .fault .abort := by
  simp [step, h]

theorem step_send {s : State} {v : VmId} (h : s.turn = .vm v) (hp : (s.vm v).pend = .send) :
    step s = (s.turnOf v).attemptSend := by
  simp only [step, h, vmTurn, State.takeTurn_vm, hp]; rfl

theorem step_recv {s : State} {v : VmId} (h : s.turn = .vm v) (hp : (s.vm v).pend = .recv) :
    step s = (s.turnOf v).attemptRecv := by
  simp only [step, h, vmTurn, State.takeTurn_vm, hp]; rfl

theorem step_iterate {s : State} {v : VmId} (h : s.turn = .vm v) (hp : (s.vm v).pend = .none)
    (hm : (s.vm v).mayIterate (s.cfg.budget v) = true) :
    step s = exec (decode (s.wordAtPc v)) (s.fetched v) := by
  simp only [step, h, vmTurn, State.takeTurn_vm, hp, State.takeTurn_cfg, hm, if_true, iterate, State.fetchWord,
    State.load_eq, State.activate_cur]
  rfl

theorem step_terminated {s : State} {v : VmId} (h : s.turn = .vm v) (hp : (s.vm v).pend = .none)
    (hm : (s.vm v).mayIterate (s.cfg.budget v) = false) : step s = .next s.takeTurn := by
  simp [step, h, vmTurn, hp, hm]

/-- Everything a step that answers a next state can have been. -/
theorem step_cases {s t : State} (h : step s = .next t) :
    (s.turn = .syncHead ∧ t = s.takeTurn.syncHead) ∨
    (s.turn = .syncTail ∧ t = s.takeTurn.syncTail) ∨
    ∃ v, s.turn = .vm v ∧
      (((s.vm v).pend = .none ∧ (s.vm v).mayIterate (s.cfg.budget v) = false ∧ t = s.takeTurn) ∨
       ((s.vm v).pend = .none ∧ (s.vm v).mayIterate (s.cfg.budget v) = true ∧
          exec (decode (s.wordAtPc v)) (s.fetched v) = .next t) ∨
       ((s.vm v).pend = .send ∧ (s.turnOf v).attemptSend = .next t) ∨
       ((s.vm v).pend = .recv ∧ (s.turnOf v).attemptRecv = .next t)) := by
  rcases ht : s.turn with v | _ | _ | _
  · right; right
    refine ⟨v, rfl, ?_⟩
    rcases hp : (s.vm v).pend
    · rcases hm : (s.vm v).mayIterate (s.cfg.budget v)
      · rw [step_terminated ht hp hm] at h
        left; exact ⟨rfl, rfl, by cases h; rfl⟩
      · rw [step_iterate ht hp hm] at h
        right; left; exact ⟨rfl, rfl, h⟩
    · rw [step_send ht hp] at h
      right; right; left; exact ⟨rfl, h⟩
    · rw [step_recv ht hp] at h
      right; right; right; exact ⟨rfl, h⟩
  · rw [step_syncHead ht] at h
    left; exact ⟨rfl, by cases h; rfl⟩
  · rw [step_syncTail ht] at h
    right; left; exact ⟨rfl, by cases h; rfl⟩
  · rw [step_abort ht] at h
    cases h

end Sys2Proof.Machine
end

