-- ==== Sys2Proof/Tests/Slice0.lean ====
section
/-! SUPPORT. The model's own tests: ill-formed terms, decoded words, one step of each instruction with the
results of 95_test_vectors.md, and for every statement a witness that meets its hypotheses. -/

namespace Sys2Proof.Tests

open Sys2Proof Sys2Proof.Machine

/-! ### WellFormed: the one check refuses the four recognised vectors (R202) -/

theorem test_wf_refuses_out : (Instr.trapOther 0x21#8).wf = false := by decide
theorem test_wf_refuses_halt : (Instr.trapOther 0x25#8).wf = false := by decide
theorem test_wf_refuses_send : (Instr.trapOther 0x30#8).wf = false := by decide
theorem test_wf_refuses_recv : (Instr.trapOther 0x31#8).wf = false := by decide

/-! ### Decoding: words written out from R93 (95_test_vectors.md, D-DEC) -/

theorem test_decode_br : decode 0b0000_010_000000010#16 = .br 0b010#3 2#9 := by decide
theorem test_decode_addReg : decode 0b0001_010_001_0_00_000#16 = .addReg 2 1 0 := by decide
theorem test_decode_addImm : decode 0b0001_001_001_1_11111#16 = .addImm 1 1 0x1F#5 := by decide
theorem test_decode_andReg : decode 0b0101_011_001_0_00_010#16 = .andReg 3 1 2 := by decide
theorem test_decode_andImm : decode 0b0101_000_000_1_00000#16 = .andImm 0 0 0#5 := by decide
theorem test_decode_not : decode 0b1001_001_000_111111#16 = .not 1 0 := by decide
theorem test_decode_ld : decode 0b0010_010_000000101#16 = .ld 2 5#9 := by decide
theorem test_decode_st : decode 0b0011_011_111111110#16 = .st 3 0x1FE#9 := by decide
theorem test_decode_jsr : decode 0b0100_1_00000000010#16 = .jsr 2#11 := by decide
theorem test_decode_jmp : decode 0b1100_000_111_000000#16 = .jmp 7 := by decide
theorem test_decode_trapOut : decode 0b1111_0000_00100001#16 = .trapOut := by decide
theorem test_decode_trapHalt : decode 0b1111_0000_00100101#16 = .trapHalt := by decide
theorem test_decode_trapSend : decode 0b1111_0000_00110000#16 = .trapSend := by decide
theorem test_decode_trapRecv : decode 0b1111_0000_00110001#16 = .trapRecv := by decide
theorem test_decode_trapOther : decode 0b1111_0000_00100000#16 = .trapOther 0x20#8 := by decide
theorem test_decode_unrec6 : decode 0b0110_000001000000#16 = .unrec6 := by decide
theorem test_decode_unrec7 : decode 0b0111_000001000000#16 = .unrec7 := by decide
theorem test_decode_unrec8 : decode 0b1000_000000000000#16 = .unrec8 := by decide
theorem test_decode_unrecA : decode 0b1010_000000000001#16 = .unrecA := by decide
theorem test_decode_unrecB : decode 0b1011_000000000001#16 = .unrecB := by decide
theorem test_decode_unrecD : decode 0b1101_000000000000#16 = .unrecD := by decide
theorem test_decode_unrecE : decode 0b1110_000111111111#16 = .unrecE := by decide

/-- The encoder writes the words of P3 of 95_test_vectors.md. -/
theorem test_encode_words :
    [Instr.andImm 1 1 0#5, .addImm 1 1 5#5, .addReg 2 2 1, .br 0b001#3 0x1FD#9, .st 2 1#9, .trapHalt].map encode
      = [0x5260#16, 0x1265#16, 0x1481#16, 0x03FD#16, 0x3401#16, 0xF025#16] := by decide

/-- Bytes are read in the order of an image file, the high byte first (R265). -/
theorem test_decodeBytes :
    decodeBytes [0xF0#8, 0x25#8, 0x12#8] = .ok (.trapHalt, [0x12#8]) ∧ decodeBytes [0x12#8] = .error .truncated :=
  ⟨rfl, rfl⟩

/-! ### One step of each instruction -/

/-- The state in which `VM[P]` is about to fetch the word `w` at address 0x3000, set up by `f`. -/
def start (w : Nat) (f : Vm → Vm) : State :=
  (State.reset.setVm .P (f (Vm.reset.setPc 0x3000#16))).withFetchWord 16 w

/-- What is read of the state after one step. -/
def after {α : Type} (s : State) (g : State → α) : Option α :=
  match step s with
  | .next t => some (g t)
  | .fault _ => none
  | .refused _ => none

/-- What is read of `VM[P]` after one step. -/
def afterP {α : Type} (s : State) (g : Vm → α) : Option α := after s fun t => g t.vmP

/-- D-OP-1 and D-OP-3: the sum wraps. -/
theorem test_addReg : afterP (start 0x1440 fun x => (x.setReg 1 0xFFFF#16).setReg 0 0x0001#16)
    (fun x => (x.reg 2, x.cond, x.pc, x.icount)) = some (0x0000#16, .z, 0x3001#16, 1) := by decide
/-- D-OP-6: source and destination are one register. -/
theorem test_addReg_same : afterP (start 0x1241 fun x => x.setReg 1 0x4000#16)
    (fun x => (x.reg 1, x.cond)) = some (0x8000#16, .n) := by decide
/-- D-OP-8. -/
theorem test_addImm : afterP (start 0x127F id) (fun x => (x.reg 1, x.cond)) = some (0xFFFF#16, .n) := by decide
/-- D-OP-12. -/
theorem test_andReg : afterP (start 0x5642 fun x => (x.setReg 1 0x0F0F#16).setReg 2 0x00FF#16)
    (fun x => (x.reg 3, x.cond)) = some (0x000F#16, .p) := by decide
/-- D-OP-17: the immediate is sign-extended before the AND. -/
theorem test_andImm : afterP (start 0x5070 fun x => x.setReg 1 0xFFFF#16)
    (fun x => (x.reg 0, x.cond)) = some (0xFFF0#16, .n) := by decide
/-- D-OP-21. -/
theorem test_not : afterP (start 0x923F fun x => x.setReg 0 0x8000#16)
    (fun x => (x.reg 1, x.cond)) = some (0x7FFF#16, .p) := by decide
/-- D-LS-1. -/
theorem test_ld : afterP (start 0x2405 fun x => x.store 0x3006#16 0x8001#16)
    (fun x => (x.reg 2, x.cond, x.pc)) = some (0x8001#16, .n, 0x3001#16) := by decide
/-- D-LS-4: the pc wraps before the address is made. -/
theorem test_ld_wraps : afterP (start 0x23FE fun x => (x.setPc 0xFFFF#16).store 0xFFFE#16 0x1021#16)
    (fun x => (x.reg 1, x.cond, x.pc)) = some (0x1021#16, .p, 0x0000#16) := by decide
/-- D-LS-8: the address wraps. -/
theorem test_st : afterP (start 0x3003 fun x => (x.setPc 0xFFFE#16).setReg 0 0xBEEF#16)
    (fun x => (x.mem.read 0x0002#16, x.cond, x.pc)) = some (0xBEEF#16, .z, 0xFFFF#16) := by decide
/-- D-BR-1, row 101, and the quirk of row 000. -/
theorem test_br : afterP (start 0x0A02 fun x => x.setCond .z) (·.pc) = some 0x3001#16
    ∧ afterP (start 0x0A02 fun x => x.setCond .p) (·.pc) = some 0x3003#16
    ∧ afterP (start 0x0002 fun x => x.setCond .p) (·.pc) = some 0x3003#16 := by decide
/-- D-BR-5. -/
theorem test_br_back : afterP (start 0x0F00 fun x => x.setPc 0x0010#16) (·.pc) = some 0xFF11#16 := by decide
/-- D-JS-3. -/
theorem test_jsr : afterP (start 0x4C00 id) (fun x => (x.reg 7, x.pc)) = some (0x3001#16, 0x2C01#16) := by decide
/-- D-JS-6. -/
theorem test_jmp : afterP (start 0xC1C0 fun x => x.setReg 7 0x3002#16)
    (fun x => (x.pc, x.reg 7)) = some (0x3002#16, 0x3002#16) := by decide
/-- D-TR-1. -/
theorem test_out : after (start 0xF021 fun x => x.setReg 0 0x1241#16)
    (fun t => (t.out, t.vmP.reg 0, t.vmP.reg 7)) = some ([0x41#8], 0x1241#16, 0x0000#16) := by decide
/-- D-TR-3 and D-LOOP-2. -/
theorem test_halt : afterP (start 0xF025 id)
    (fun x => (x.running, x.icount, x.pc, x.stopKind 1)) = some (false, 1, 0x3001#16, some .halt) := by decide
/-- D-TR-4. -/
theorem test_send : after (start 0xF030 fun x => x.setReg 0 0x0001#16)
    (fun t => (t.q.buffer.head?, t.q.head, t.vmP.messagesSent, t.vmP.icount, t.vmP.pend))
      = some (some (some 0x0001#16), 1, 1, 1, .none) := by decide
/-- D-TR-9. -/
theorem test_recv_empty : afterP (start 0xF031 id)
    (fun x => (x.receiveSpinIterations, x.icount, x.pend)) = some (1, 0, .recv) := by decide
/-- D-TR-8. -/
theorem test_recv : after
    { start 0xF031 id with q := { Ring.reset 4 with buffer := [some 0xFFFF#16, none, none, none], head := 1, headC := 1 } }
    (fun t => (t.vmP.reg 0, t.vmP.cond, t.q.tail, t.vmP.messagesReceived, t.vmP.receiveSpinIterations))
      = some (0xFFFF#16, .n, 1, 1, 0) := by decide
/-- D-TR-10. -/
theorem test_trapOther : afterP (start 0xF020 fun x => (x.setReg 0 0x1234#16).setCond .n)
    (fun x => (x.reg 0, x.cond, x.pc, x.icount)) = some (0x1234#16, .n, 0x3001#16, 1) := by decide
/-- D-UN: none of the seven words changes a register, `COND` or memory. -/
theorem test_unrecognised : [0x6040, 0x7040, 0x8000, 0xA001, 0xB001, 0xD000, 0xE1FF].map (fun w =>
      afterP (start w fun x => (x.setReg 1 0x3010#16).store 0x3010#16 0x5555#16)
        (fun x => (x.reg 0, x.mem.read 0x3010#16, x.cond, x.pc, x.icount)))
    = List.replicate 7 (some (0x0000#16, 0x5555#16, .z, 0x3001#16, 1)) := by decide

/-! ### The ring buffer and the launch -/

/-- The ring of D-Q-3, row 3: two items outstanding, the producer's view one behind. -/
def lagging : Ring :=
  { buffer := [some 0x000A#16, some 0x000B#16, some 0x000C#16, none], head := 3, tail := 1, tailP := 0, headC := 3 }

/-- D-Q-3, rows 3 to 5: a spurious full, one SyncTail, then the push succeeds and wraps. -/
theorem test_spurious_full : lagging.push 4 0x000D#16 = none ∧
    ((lagging.syncTail 4).push 4 0x000D#16).map (fun q => (q.head, q.slot 3)) = some (0, some 0x000D#16) := by decide
/-- D-Q-4, rows 2 to 4: a spurious empty, one SyncHead, then the pop succeeds. -/
theorem test_spurious_empty :
    let q : Ring := { Ring.reset 4 with buffer := [some 0x0001#16, none, none, none], head := 1 }
    q.pop 4 = .empty ∧ (q.syncHead 4).pop 4 = .value 0x0001#16 { q with headC := 1, tail := 1 } := by decide
/-- The invariant's ring of D-Q-3, row 8: `d(tail) = 2`, `d(head_c) = 2`, `d(head) = 3`. -/
theorem test_dist : ([3, 3, 0].map (Ring.dist 4 { lagging with head := 0, tail := 3, tailP := 1 })) = [2, 2, 3] := by decide
/-- The launch of `State.reset` is what `State.boot` makes of the empty image. -/
theorem test_boot_reset : State.boot Launch.reset = .next State.reset := rfl
/-- D-IMG-2 and D-IMG-3. -/
theorem test_image : parseImage [0x30#8, 0x00#8, 0x12#8, 0x34#8, 0xAB#8, 0xCD#8]
      = some { origin := 0x3000#16, words := [0x1234#16, 0xABCD#16] }
    ∧ parseImage [0xFF#8, 0xFF#8, 0xF0#8, 0x25#8] = some { origin := 0xFFFF#16, words := [0xF025#16] } := by decide
/-- D-IMG-4: the image would run past cell 0xFFFF. -/
theorem test_image_long : parseImage [0xFF#8, 0xFF#8, 0xF0#8, 0x25#8, 0xF0#8, 0x25#8] = none := by decide

/-! ### Witnesses: states that meet the hypotheses of the statements -/

/-- After one SEND of `VM[P]`: one item outstanding, not yet seen by the consumer. -/
def sent : State :=
  { State.reset with
    q := { Ring.reset 4 with buffer := [some 0x0005#16, none, none, none], head := 1 }
    producer := some .P
    vmP := { Vm.reset with messagesSent := 1, icount := 1 } }

/-- The item is seen. -/
def seen : State := { sent with q := { sent.q with headC := 1 } }

/-- Three items outstanding of four slots: full. -/
def full : State :=
  { State.reset with
    q := { buffer := [some 0x0001#16, some 0x0002#16, some 0x0003#16, none], head := 3, tail := 0, tailP := 0, headC := 3 }
    producer := some .P
    vmP := { Vm.reset with messagesSent := 3, icount := 3 } }

/-- `VM[C]` has received the oldest of the three; the producer's view lags. -/
def lagged : State :=
  { full with
    q := { full.q with tail := 1 }
    consumer := some .C
    vmC := { Vm.reset with messagesReceived := 1, icount := 1 } }

/-- `VM[P]` both pushes and pops. -/
def single (s : State) : State := { s with producer := some .P, consumer := some .P }

/-- A configuration that refuses unrecognised words. -/
def strict : State := { State.reset with cfg := { resetConfig with unrecognized := .refuse } }

/-- `VM[v]` is inside a SEND or a RECV. -/
def pending (s : State) (v : VmId) (p : Pend) : State := s.setVm v ((s.vm v).setPend p)

/-- `VM[v]` is about to fetch `w`, and its turn is next. -/
def fetching (s : State) (v : VmId) (w : Word) : State := (s.setVm v ((s.vm v).store (s.vm v).pc w)).withTurn (.vm v)

theorem inv_of_parts {s : State} (c : s.cfg.wf = true) (r : s.q.Inv s.cfg.capacity)
    (p : s.vmP.Inv (s.cfg.budget .P)) (q : s.vmC.Inv (s.cfg.budget .C))
    (b : s.vmP.messagesSent + s.vmC.messagesSent
      = s.vmP.messagesReceived + s.vmC.messagesReceived + s.q.count s.cfg.capacity)
    (hs : (0 < s.vmP.messagesSent ∨ s.vmP.pend = .send → s.producer = some .P) ∧
      (0 < s.vmC.messagesSent ∨ s.vmC.pend = .send → s.producer = some .C))
    (hr : (0 < s.vmP.messagesReceived ∨ s.vmP.pend = .recv → s.consumer = some .P) ∧
      (0 < s.vmC.messagesReceived ∨ s.vmC.pend = .recv → s.consumer = some .C)) : s.Inv :=
  ⟨c, r, fun v => by cases v <;> assumption, b, fun v => by cases v; exacts [hs.1, hs.2],
    fun v => by cases v; exacts [hr.1, hr.2]⟩

theorem sent_inv : sent.Inv :=
  inv_of_parts (by decide) (by constructor <;> decide) (by constructor <;> decide) (by constructor <;> decide)
    (by decide) (by decide) (by decide)

theorem seen_inv : seen.Inv :=
  inv_of_parts (by decide) (by constructor <;> decide) (by constructor <;> decide) (by constructor <;> decide)
    (by decide) (by decide) (by decide)

theorem full_inv : full.Inv :=
  inv_of_parts (by decide) (by constructor <;> decide) (by constructor <;> decide) (by constructor <;> decide)
    (by decide) (by decide) (by decide)

theorem strict_inv : strict.Inv :=
  inv_of_parts (by decide) (by constructor <;> decide) (by constructor <;> decide) (by constructor <;> decide)
    (by decide) (by decide) (by decide)

theorem lagged_inv : lagged.Inv :=
  inv_of_parts (by decide) (by constructor <;> decide) (by constructor <;> decide) (by constructor <;> decide)
    (by decide) (by decide) (by decide)

/-! #### Encoding -/

theorem witness_DecodeEncodeAgree : (Instr.trapOther 0x20#8).wf = true ∧ (Instr.br 0b111#3 0x1FF#9).wf = true := by decide

/-- A TRAP word for each clause, at both ends of the vectors and beside the recognised ones. -/
theorem witness_DecodingIsTotal :
    [0xF000#16, 0xF020#16, 0xF021#16, 0xF022#16, 0xF025#16, 0xF030#16, 0xF031#16, 0xF032#16, 0xFFFF#16].map
      (fun w => wordBits w 15 12) = List.replicate 9 15 ∧
    wordBits 0xF021#16 7 0 = 0x21 ∧ wordBits 0xFF25#16 7 0 = 0x25 ∧ wordBits 0xF030#16 7 0 = 0x30 ∧
    wordBits 0xF031#16 7 0 = 0x31 ∧ wordBits 0xF0FF#16 7 0 ∉ [0x21, 0x25, 0x30, 0x31] := by decide

/-- D-DEC: pairs of words that differ in undecoded bits only. -/
theorem witness_UndecodedBitsIgnored :
    [(0x1440#16, 0x1458#16), (0x923F#16, 0x9200#16), (0x4802#16, 0x4002#16), (0xC1C0#16, 0xCFC0#16),
        (0xF025#16, 0xFF25#16), (0x6040#16, 0x6FFF#16)].all
      (fun p => p.1 &&& decodedMask (decode p.1) == p.2 &&& decodedMask (decode p.1)) = true ∧
    Instr.trapRecv ∈ [Instr.trapOut, .trapHalt, .trapSend, .trapRecv] := by decide

/-- `0xF021` matches two rows, and the one with more mask bits stands in the table before the other. -/
theorem witness_LongestMaskRowWins :
    (opcodeTable.filter (·.hit 0xF021#16)).map (fun p => (p.row, p.maskBits)) = [(.trapOut, 12), (.trapOther, 4)] ∧
    0xF021#16 &&& decodedMask (decode 0xF021#16) = 0xFF21#16 &&& decodedMask (decode 0xF021#16) := by decide

theorem witness_SignExtension : 5 ∈ [5, 9, 11] ∧ 9 ∈ [5, 9, 11] ∧ 11 ∈ [5, 9, 11]
    ∧ (sext 0x10#5 = 0xFFF0#16 ∧ sext 0x0F#5 = 0x000F#16) ∧ (sext 0x100#9 = 0xFF00#16 ∧ sext 0x0FF#9 = 0x00FF#16)
    ∧ (sext 0x400#11 = 0xFC00#16 ∧ sext 0x3FF#11 = 0x03FF#16) := by decide

/-! #### Instructions -/

/-- Each instruction that writes `COND` answers a next state somewhere; a RECV completes, at both flag settings of
LD. -/
theorem witness_CondFollowsResult :
    (∃ t, exec (.addReg 2 1 0) State.reset = .next t) ∧ (∃ t, exec (.andReg 3 1 2) State.reset = .next t) ∧
    (∃ t, exec (.addImm 1 1 0x1F#5) State.reset = .next t) ∧ (∃ t, exec (.andImm 0 0 0#5) State.reset = .next t) ∧
    (∃ t, exec (.not 1 0) State.reset = .next t) ∧
    (∃ t, exec (.ld 2 5#9) State.reset = .next t) ∧ State.reset.cfg.ldSetsCC = true ∧
    ∃ t, exec .trapRecv (seen.activate .C) = .next t ∧ t.cur.pend = .none :=
  ⟨⟨_, rfl⟩, ⟨_, rfl⟩, ⟨_, rfl⟩, ⟨_, rfl⟩, ⟨_, rfl⟩, ⟨_, rfl⟩, rfl, _, rfl, rfl⟩

theorem witness_AddRegisterMode : [0x1000#16, 0x1440#16, 0x1FDF#16].map (fun w => (wordBits w 15 12, wordBits w 5 5)) = List.replicate 3 (1, 0) := by decide
theorem witness_AddImmediateMode : [0x1020#16, 0x127F#16, 0x1FFF#16].map (fun w => (wordBits w 15 12, wordBits w 5 5)) = List.replicate 3 (1, 1) := by decide
theorem witness_AndRegisterMode : [0x5000#16, 0x5642#16, 0x5FDF#16].map (fun w => (wordBits w 15 12, wordBits w 5 5)) = List.replicate 3 (5, 0) := by decide
theorem witness_AndImmediateMode : [0x5020#16, 0x507F#16, 0x5FFF#16].map (fun w => (wordBits w 15 12, wordBits w 5 5)) = List.replicate 3 (5, 1) := by decide
theorem witness_NotComplements : [0x9000#16, 0x923F#16, 0x9FFF#16].map (fun w => wordBits w 15 12) = List.replicate 3 9 := by decide

/-- A configuration with LD's flags off. -/
def quietLd : State := { State.reset with cfg := { resetConfig with ldSetsCC := false } }

theorem witness_LoadIsPcRelative : ([0x2000#16, 0x2405#16, 0x2FFF#16].map (fun w => wordBits w 15 12) = List.replicate 3 2)
    ∧ State.reset.cfg.ldSetsCC = true ∧ quietLd.cfg.ldSetsCC = false := by decide

/-- A store below, at and above the pc, and addresses that are and are not the stored one. -/
theorem witness_StoreIsPcRelative : ([0x3000#16, 0x37FE#16, 0x3FFF#16].map (fun w => wordBits w 15 12) = List.replicate 3 3)
    ∧ State.reset.cur.mem.wf = true
    ∧ (State.reset.cur.pc.toNat + sextNat 9 0x1FF) % 65536 = 0xFFFF
    ∧ (0xFFFE#16).toNat ≠ (State.reset.cur.pc.toNat + sextNat 9 0x1FF) % 65536 := by decide

theorem witness_FetchSeesStore : State.reset.cur.mem.wf = true ∧ sextNat 9 0 = 0 ∧ sextNat 9 0x1FF ≠ 0 := by decide

theorem witness_BranchOutcomes : [0x0000#16, 0x0402#16, 0x0FFF#16].map (fun w => wordBits w 15 12) = List.replicate 3 0 := by decide
theorem witness_MaskZeroBranches : [0x0000#16, 0x0001#16, 0x01FF#16].map (fun w => wordBits w 15 9) = List.replicate 3 0 := by decide
theorem witness_JsrLinksAndJumps : [0x4000#16, 0x4802#16, 0x4FFF#16].map (fun w => wordBits w 15 12) = List.replicate 3 4 := by decide
theorem witness_JmpJumps : [0xC000#16, 0xC1C0#16, 0xCFFF#16].map (fun w => wordBits w 15 12) = List.replicate 3 12 := by decide
theorem witness_OutEmitsLowByte : [0xF021#16, 0xFF21#16].map (fun w => (wordBits w 15 12, wordBits w 7 0)) = List.replicate 2 (15, 0x21) := by decide
theorem witness_HaltClearsRunning : ([0xF025#16, 0xFF25#16].map (fun w => (wordBits w 15 12, wordBits w 7 0)) = List.replicate 2 (15, 0x25))
    ∧ State.reset.cur.pend = .none := by decide

/-- Room, full, and a second pusher, for a SEND that is fetched and for one that is pending; room and full also for an
instance that pops as well. -/
theorem witness_SendAttempts :
    (wordBits 0xF030#16 15 12 = 15 ∧ wordBits 0xF030#16 7 0 = 0x30) ∧
    (State.reset.mayPush ∧ (State.reset.q.head + 1) % State.reset.cfg.capacity ≠ State.reset.seenTail) ∧
    (full.mayPush ∧ (full.q.head + 1) % full.cfg.capacity = full.seenTail) ∧
    ((single lagged).mayPush ∧ ((single lagged).q.head + 1) % (single lagged).cfg.capacity ≠ (single lagged).seenTail) ∧
    ¬ (full.activate .C).mayPush ∧
    (let s := (pending State.reset .P .send).withTurn (.vm .P)
     s.turn = .vm .P ∧ (s.vm .P).pend = .send ∧ (s.turnOf .P).mayPush
      ∧ (s.q.head + 1) % s.cfg.capacity ≠ (s.turnOf .P).seenTail) ∧
    (let s := (pending full .P .send).withTurn (.vm .P)
     s.turn = .vm .P ∧ (s.vm .P).pend = .send ∧ (s.turnOf .P).mayPush
      ∧ (s.q.head + 1) % s.cfg.capacity = (s.turnOf .P).seenTail) ∧
    (let s := (pending full .C .send).withTurn (.vm .C)
     s.turn = .vm .C ∧ (s.vm .C).pend = .send ∧ ¬ (s.turnOf .C).mayPush) := by
  unfold State.mayPush; decide

/-- An item seen, none seen, and a second popper, for a RECV that is fetched and for one that is pending. -/
theorem witness_RecvAttempts :
    (wordBits 0xF031#16 15 12 = 15 ∧ wordBits 0xF031#16 7 0 = 0x31) ∧
    (let s := seen.activate .C
     s.mayPop ∧ s.seenHead ≠ s.q.tail ∧ s.q.slot s.q.tail = some 0x0005#16) ∧
    (let s := sent.activate .C
     s.mayPop ∧ s.seenHead = s.q.tail) ∧
    (let s := single sent
     s.mayPop ∧ s.seenHead ≠ s.q.tail ∧ s.q.slot s.q.tail = some 0x0005#16) ∧
    ¬ lagged.mayPop ∧
    (let s := (pending seen .C .recv).withTurn (.vm .C)
     s.turn = .vm .C ∧ (s.vm .C).pend = .recv ∧ (s.turnOf .C).mayPop ∧ (s.turnOf .C).seenHead ≠ s.q.tail
      ∧ s.q.slot s.q.tail = some 0x0005#16) ∧
    (let s := (pending sent .C .recv).withTurn (.vm .C)
     s.turn = .vm .C ∧ (s.vm .C).pend = .recv ∧ (s.turnOf .C).mayPop ∧ (s.turnOf .C).seenHead = s.q.tail) ∧
    (let s := (pending lagged .P .recv).withTurn (.vm .P)
     s.turn = .vm .P ∧ (s.vm .P).pend = .recv ∧ ¬ (s.turnOf .P).mayPop) := by
  unfold State.mayPop; decide

theorem witness_UnrecognisedVectorIsNop :
    [0xF000#16, 0xF020#16, 0xF022#16, 0xF024#16, 0xF026#16, 0xF02F#16, 0xF032#16, 0xFFFF#16].map
      (fun w => (wordBits w 15 12, decide (wordBits w 7 0 ∉ [0x21, 0x25, 0x30, 0x31]))) = List.replicate 8 (15, true) ∧
    State.reset.cfg.unrecognized = .nop := by decide

theorem witness_UnrecognisedOpcodeIsNop :
    [0x6000#16, 0x6FFF#16, 0x7000#16, 0x7FFF#16, 0x8000#16, 0x8FFF#16, 0xA000#16, 0xAFFF#16, 0xB000#16, 0xBFFF#16,
        0xD000#16, 0xDFFF#16, 0xE000#16, 0xEFFF#16].map (fun w => wordBits w 15 12)
      = [0x6, 0x6, 0x7, 0x7, 0x8, 0x8, 0xA, 0xA, 0xB, 0xB, 0xD, 0xD, 0xE, 0xE] ∧
    Instr.unrecE ∈ [Instr.unrec6, .unrec7, .unrec8, .unrecA, .unrecB, .unrecD, .unrecE] ∧
    State.reset.cfg.unrecognized = .nop := by decide

/-- An unrecognised opcode with the whole budget left, and an unrecognised vector with one instruction left. -/
theorem witness_RefuseParameterRefuses :
    strict.cfg.unrecognized = .refuse ∧
    Instr.unrec6 ∈ [Instr.unrec6, .unrec7, .unrec8, .unrecA, .unrecB, .unrecD, .unrecE] ∧
    (let s := fetching strict .P 0x6040#16
     s.turn = .vm .P ∧ (s.vm .P).pend = .none ∧ (s.vm .P).running = true ∧ (s.vm .P).icount < s.cfg.budget .P
      ∧ s.cfg.unrecognized = .refuse ∧ unclaimed (decode ((s.vm .P).mem.read (s.vm .P).pc)) = true) ∧
    (let s := fetching (strict.setVm .C { Vm.reset with icount := 999 }) .C 0xF020#16
     s.turn = .vm .C ∧ (s.vm .C).pend = .none ∧ (s.vm .C).running = true ∧ (s.vm .C).icount < s.cfg.budget .C
      ∧ s.cfg.unrecognized = .refuse ∧ unclaimed (decode ((s.vm .C).mem.read (s.vm .C).pc)) = true) := by decide

/-! #### The loop -/

/-- Also with one instruction left of the budget. -/
theorem witness_StepRunsDecodedInstruction :
    (let s := fetching State.reset .P 0x1440#16
     s.turn = .vm .P ∧ (s.vm .P).pend = .none ∧ (s.vm .P).running = true ∧ (s.vm .P).icount < s.cfg.budget .P
      ∧ decode ((s.vm .P).mem.read (s.vm .P).pc) = .addReg 2 1 0) ∧
    (let s := fetching (State.reset.setVm .C { Vm.reset with icount := 999, pc := 0xFFFF#16 }) .C 0xF030#16
     s.turn = .vm .C ∧ (s.vm .C).pend = .none ∧ (s.vm .C).running = true ∧ (s.vm .C).icount < s.cfg.budget .C
      ∧ decode ((s.vm .C).mem.read (s.vm .C).pc) = .trapSend) := by decide

/-- `VM[P]` has halted, and `VM[C]` has used up its budget. -/
def ended : State :=
  { State.reset with vmP := { Vm.reset with running := false, icount := 7 }, vmC := { Vm.reset with icount := 1000 } }

theorem witness_TerminatedInstanceIsFrozen :
    ((ended.vm .P).pend = .none ∧ (ended.vm .P).running = false) ∧
    ((ended.vm .C).pend = .none ∧ ended.cfg.budget .C ≤ (ended.vm .C).icount) ∧
    (∃ t, step (ended.withTurn .syncHead) = .next t) ∧ (ended.withTurn (.vm .P)).turn = .vm .P :=
  ⟨by decide, by decide, ⟨_, rfl⟩, rfl⟩

theorem witness_EveryIterationCountsOnce :
    (∃ t, exec .trapHalt State.reset = .next t) ∧ (∃ t, exec .trapSend full = .next t) ∧
    (∃ t, exec .trapRecv (seen.activate .C) = .next t) ∧
    (let s := (pending seen .C .recv).withTurn (.vm .C)
     s.turn = .vm .C ∧ (s.vm .C).pend ≠ .none ∧ ∃ t, step s = .next t) :=
  ⟨⟨_, rfl⟩, ⟨_, rfl⟩, ⟨_, rfl⟩, rfl, by decide, _, rfl⟩

/-- A HALT stop, a budget stop, and a HALT that was the last budgeted instruction. -/
theorem witness_StopKindsAreDistinguishable :
    (ended.vmP.Inv 1000 ∧ ended.vmP.terminated 1000 = true) ∧ (ended.vmC.Inv 1000 ∧ ended.vmC.terminated 1000 = true) ∧
    (ended.vmP.Inv 7 ∧ ended.vmP.terminated 7 = true) := by
  refine ⟨⟨?_, by decide⟩, ⟨?_, by decide⟩, ?_, by decide⟩ <;> constructor <;> decide

/-! #### What a step leaves alone -/

theorem witness_OnlyTabledRegistersWritten : ∃ t, exec (.jsr 2#11) State.reset = .next t := ⟨_, rfl⟩

theorem witness_OnlyTabledInstructionsWriteCond :
    (∃ t, exec (.ld 2 5#9) quietLd = .next t) ∧ writesCond quietLd.cfg (.ld 2 5#9) = false ∧
    ∃ t, exec .trapRecv (sent.activate .C) = .next t ∧ t.cur.pend = .recv :=
  ⟨⟨_, rfl⟩, rfl, _, rfl, rfl⟩

theorem witness_OnlyTransfersWritePc :
    (∃ t, exec (.br 0#3 2#9) State.reset = .next t ∧ t.cur.pc ≠ State.reset.cur.pc) ∧
    (∃ t, exec (.jsr 2#11) State.reset = .next t ∧ t.cur.pc ≠ State.reset.cur.pc) ∧
    (let s := State.reset.writeReg 7 0x3000#16
     ∃ t, exec (.jmp 7) s = .next t ∧ t.cur.pc ≠ s.cur.pc) :=
  ⟨⟨_, rfl, by decide⟩, ⟨_, rfl, by decide⟩, _, rfl, by decide⟩

/-- ST of a register that is not zero to the cell after it. -/
def storing : State := fetching (State.reset.setVm .P (Vm.reset.setReg 3 0x1234#16)) .P 0x3600#16

theorem witness_OnlyStoreChangesMemory : (storing.vm .P).mem.wf = true ∧
    ∃ t, step storing = .next t ∧ (t.vm .P).mem.read 0x0001#16 ≠ (storing.vm .P).mem.read 0x0001#16 :=
  ⟨by decide, _, rfl, by decide⟩

theorem witness_OnlyHaltClearsRunning : State.boot Launch.reset = .next State.reset ∧
    ∃ t, step (fetching State.reset .C 0xF025#16) = .next t ∧
      (t.vm .C).running ≠ ((fetching State.reset .C 0xF025#16).vm .C).running :=
  ⟨rfl, _, rfl, by decide⟩

theorem witness_OnlyOutEmits : ∃ t, step (fetching State.reset .P 0xF021#16) = .next t ∧ t.out ≠ State.reset.out :=
  ⟨_, rfl, by decide⟩

/-- A SEND, a RECV, a step of each Sync agent, and a SEND and a RECV of an instance that does both. -/
theorem witness_IndicesMoveOnlyByTheirOwners :
    (∃ t, step (fetching lagged .P 0xF030#16) = .next t ∧ t.q = lagged.q) ∧
    (∃ t, step (fetching State.reset .P 0xF030#16) = .next t ∧ t.q.head ≠ State.reset.q.head
      ∧ t.q.buffer ≠ State.reset.q.buffer) ∧
    (∃ t, step (fetching seen .C 0xF031#16) = .next t ∧ t.q.tail ≠ seen.q.tail) ∧
    (∃ t, step (lagged.withTurn .syncTail) = .next t ∧ t.q.tailP ≠ lagged.q.tailP) ∧
    (∃ t, step (sent.withTurn .syncHead) = .next t ∧ t.q.headC ≠ sent.q.headC) ∧
    (∃ t, step (fetching (single lagged) .P 0xF030#16) = .next t ∧ t.q.tailP ≠ lagged.q.tailP) ∧
    (∃ t, step (fetching (single sent) .P 0xF031#16) = .next t ∧ t.q.headC ≠ sent.q.headC) :=
  ⟨⟨_, rfl, by decide⟩, ⟨_, rfl, by decide, by decide⟩, ⟨_, rfl, by decide⟩, ⟨_, rfl, by decide⟩,
    ⟨_, rfl, by decide⟩, ⟨_, rfl, by decide⟩, _, rfl, by decide⟩

theorem witness_CountersOnlyGrow :
    ∃ t, step (fetching State.reset .P 0xF030#16) = .next t ∧ (fetching State.reset .P 0xF030#16).turn ≠ .vm .C :=
  ⟨_, rfl, by decide⟩

theorem witness_StepKeepsConfig : ∃ t, step (sent.withTurn .syncHead) = .next t := ⟨_, rfl⟩

/-- Two machines that differ in `VM[C]` only, at a turn of `VM[P]`; and two whose turn is a violation. -/
theorem witness_InstancesAreIsolated :
    (let s := fetching State.reset .P 0x1440#16
     let s' := s.setVm .C (Vm.reset.setReg 0 0x0001#16)
     State.AgreeFor .P s s' ∧ s.turn = .vm .P ∧ s ≠ s') ∧
    (let s := (pending full .C .send).withTurn (.vm .C)
     let s' := s.setVm .P Vm.reset
     State.AgreeFor .C s s' ∧ s.turn = .vm .C ∧ s ≠ s') ∧
    (let s := fetching strict .P 0x6040#16
     let s' := s.setVm .C (Vm.reset.setReg 0 0x0001#16)
     State.AgreeFor .P s s' ∧ s.turn = .vm .P ∧ s ≠ s') := by
  unfold State.AgreeFor; decide

/-! #### The ring buffer -/

theorem witness_SyncAdvancesLaggingView :
    (lagged.withTurn .syncTail).turn = .syncTail ∧ (lagged.withTurn .syncHead).turn = .syncHead := ⟨rfl, rfl⟩

theorem lagging_inv : lagging.Inv 4 := by constructor <;> decide

theorem witness_SyncTurnsCatchUp : lagged.q.Inv lagged.cfg.capacity ∧ lagged.cfg.capacity ≤ 3 + 1 ∧
    (∃ s : State, s.q.Inv s.cfg.capacity ∧ s.sched = List.replicate 3 .syncHead ++ [.abort]) ∧
    (∃ s : State, s.q.Inv s.cfg.capacity ∧ s.sched = List.replicate 3 .syncTail ++ [.abort]) :=
  ⟨lagged_inv.ring, by decide, ⟨{ lagged with sched := List.replicate 3 .syncHead ++ [.abort] }, lagged_inv.ring, rfl⟩,
    { lagged with sched := List.replicate 3 .syncTail ++ [.abort] }, lagged_inv.ring, rfl⟩

theorem witness_RingActsAsQueue : lagging.Inv 4 ∧ (∃ q, (lagging.syncTail 4).push 4 0x000D#16 = some q) ∧
    (lagging.syncTail 4).Inv 4 ∧ ∃ q, lagging.pop 4 = .value 0x000B#16 q :=
  ⟨lagging_inv, ⟨_, rfl⟩, by constructor <;> decide, _, rfl⟩

/-- `N-1` outstanding, none outstanding, and a current view on each side; also the smallest ring. -/
theorem witness_FullAndEmptyAreExact :
    (full.q.Inv 4 ∧ full.q.count 4 = 4 - 1 ∧ full.q.tailP = full.q.tail) ∧
    ((Ring.reset 4).Inv 4 ∧ (Ring.reset 4).count 4 = 0 ∧ (Ring.reset 4).headC = (Ring.reset 4).head) ∧
    (lagging.Inv 4 ∧ lagging.headC = lagging.head) ∧
    (let q : Ring := { buffer := [some 0x000A#16, none], head := 1, tail := 0, tailP := 0, headC := 1 }
     q.Inv 2 ∧ q.count 2 = 2 - 1 ∧ q.tailP = q.tail ∧ q.headC = q.head) :=
  ⟨⟨full_inv.ring, by decide, by decide⟩, ⟨by constructor <;> decide, by decide, by decide⟩,
    ⟨lagging_inv, by decide⟩, by constructor <;> decide, by decide, by decide, by decide⟩

theorem witness_SingleAgentIsExact :
    (let s := single full
     s.q.Inv s.cfg.capacity ∧ s.producer = some s.active ∧ s.consumer = some s.active) ∧
    (let s := single State.reset
     s.q.Inv s.cfg.capacity ∧ s.producer = some s.active ∧ s.consumer = some s.active) :=
  ⟨⟨full_inv.ring, rfl, rfl⟩, by constructor <;> decide, rfl, rfl⟩

/-- A failing attempt of each kind, fetched and pending, and an instruction that gives no role. -/
theorem witness_AttemptTakesTheRole :
    (∃ t, exec .trapSend full = .next t) ∧ (∃ t, exec .trapRecv (sent.activate .C) = .next t) ∧
    (∃ t, exec .trapOut full = .next t) ∧
    (let s := (pending full .P .send).withTurn (.vm .P)
     s.turn = .vm .P ∧ (s.vm .P).pend = .send ∧ ∃ t, step s = .next t) ∧
    (let s := (pending sent .C .recv).withTurn (.vm .C)
     s.turn = .vm .C ∧ (s.vm .C).pend = .recv ∧ ∃ t, step s = .next t) :=
  ⟨⟨_, rfl⟩, ⟨_, rfl⟩, ⟨_, rfl⟩, ⟨rfl, rfl, _, rfl⟩, rfl, rfl, _, rfl⟩

/-- D-Q-6: each kind of second agent, pending and about to fetch. -/
theorem witness_SecondAgentIsViolation :
    (let s := (pending full .C .send).withTurn (.vm .C)
     s.turn = .vm .C ∧ s.producer = some VmId.C.other ∧ (s.vm .C).pend = .send) ∧
    (let s := fetching full .C 0xF030#16
     s.turn = .vm .C ∧ s.producer = some VmId.C.other ∧ (s.vm .C).pend = .none ∧ (s.vm .C).running = true
      ∧ (s.vm .C).icount < s.cfg.budget .C ∧ decode ((s.vm .C).mem.read (s.vm .C).pc) = .trapSend) ∧
    (let s := (pending lagged .P .recv).withTurn (.vm .P)
     s.turn = .vm .P ∧ s.consumer = some VmId.P.other ∧ (s.vm .P).pend = .recv) ∧
    (let s := fetching lagged .P 0xF031#16
     s.turn = .vm .P ∧ s.consumer = some VmId.P.other ∧ (s.vm .P).pend = .none ∧ (s.vm .P).running = true
      ∧ (s.vm .P).icount < s.cfg.budget .P ∧ decode ((s.vm .P).mem.read (s.vm .P).pc) = .trapRecv) := by decide

/-! #### Whole-machine statements -/

theorem fetching_inv {s : State} {v : VmId} {w : Word} (h : s.Inv)
    (m : ((s.vm v).store (s.vm v).pc w).mem.wf = true) : (fetching s v w).Inv := by
  cases v
  · exact inv_of_parts h.config h.ring ⟨m, (h.vms .P).counted, (h.vms .P).spinning⟩ (h.vms .C) h.balance
      ⟨h.sender .P, h.sender .C⟩ ⟨h.receiver .P, h.receiver .C⟩
  · exact inv_of_parts h.config h.ring (h.vms .P) ⟨m, (h.vms .C).counted, (h.vms .C).spinning⟩ h.balance
      ⟨h.sender .P, h.sender .C⟩ ⟨h.receiver .P, h.receiver .C⟩

theorem witness_StepKeepsInvariant : (fetching seen .C 0xF031#16).Inv ∧
    ∃ t, step (fetching seen .C 0xF031#16) = .next t ∧ t.vmC.messagesReceived = 1 :=
  ⟨fetching_inv seen_inv (by decide), _, rfl, by decide⟩

/-- An Abort, a second pusher and a second popper, in states of the invariant. -/
theorem witness_OnlyAbortAndViolationStop :
    (sent.Inv ∧ step (sent.withTurn .abort) = .fault .abort) ∧
    ((fetching full .C 0xF030#16).Inv ∧ step (fetching full .C 0xF030#16) = .fault (.spscViolation .C .push)) ∧
    ((fetching lagged .P 0xF031#16).Inv ∧ step (fetching lagged .P 0xF031#16) = .fault (.spscViolation .P .pop)) ∧
    ((fetching strict .P 0x6040#16).Inv ∧ step (fetching strict .P 0x6040#16) = .refused .unrecognisedWord) :=
  ⟨⟨sent_inv, rfl⟩, ⟨fetching_inv full_inv (by decide), rfl⟩, ⟨fetching_inv lagged_inv (by decide), rfl⟩,
    fetching_inv strict_inv (by decide), rfl⟩

/-- A run of a SEND of `VM[P]`, a step of `SyncHead` and a RECV of `VM[C]`. -/
def handOff : State :=
  { State.reset with
    vmP := (Vm.reset.setReg 0 0x0007#16).store 0x0000#16 0xF030#16
    vmC := Vm.reset.store 0x0000#16 0xF031#16
    sched := [.vm .P, .syncHead, .vm .C] }

theorem witness_RunDeliversInOrder : handOff.Inv ∧ (∃ t, stateAfter 3 handOff = some t ∧ t.vmC.reg 0 = 0x0007#16) ∧
    pushedIn 3 handOff = [0x0007#16] ∧ poppedIn 3 handOff = [0x0007#16] :=
  ⟨inv_of_parts (by decide) (by constructor <;> decide) (by constructor <;> decide) (by constructor <;> decide)
    (by decide) (by decide) (by decide), ⟨_, rfl, by decide⟩, by decide, by decide⟩

theorem witness_ReceiverLagsByUsableSlots : lagged.Inv ∧ lagged.producer ≠ some .C ∧ lagged.consumer ≠ some .P :=
  ⟨lagged_inv, by decide, by decide⟩

/-! #### Fair runs: `VM[C]` inside a RECV that cannot see the item yet, `VM[P]` inside a SEND that cannot see the room
yet; the other instance has halted -/

/-- The start of the RECV's run. -/
def recvStart : State :=
  { sent with
    consumer := some .C
    vmP := { sent.vmP with running := false }
    vmC := { Vm.reset with pend := .recv, icount := 999 } }

/-- The end of the RECV's run, after `n` turns. -/
def recvEnd (n : Nat) : State :=
  { recvStart with
    q := { recvStart.q with headC := 1, tail := 1, tailP := 1 }
    vmC := { (Vm.reset.setReg 0 0x0005#16).setCond .p with icount := 1000, messagesReceived := 1 }
    active := .C
    tick := n }

/-- The run: `SyncHead`, the RECV's attempt, `SyncTail`, and then nothing moves any more. -/
def recvRun : Nat → State
  | 0 => recvStart
  | 1 => { recvStart with q := { recvStart.q with headC := 1 }, tick := 1 }
  | 2 => { recvEnd 2 with q := { (recvEnd 2).q with tailP := 0 } }
  | k + 3 => recvEnd (k + 3)

def recvTurns : Nat → Turn
  | 0 => .syncHead
  | 1 => .vm .C
  | _ + 2 => .syncTail

theorem recvRun_is_run : IsRun recvTurns recvRun
  | 0 => rfl
  | 1 => rfl
  | 2 => rfl
  | _ + 3 => rfl

theorem recvRun_is_fair : WeaklyFair recvTurns recvRun := by
  intro a k
  refine ⟨k + 3, by omega, Or.inr ?_⟩
  rcases a with (_ | _) | _ | _ | _ <;> rfl

theorem witness_FairRunCompletesReceive : IsRun recvTurns recvRun ∧ WeaklyFair recvTurns recvRun ∧ (recvRun 0).Inv ∧
    ((recvRun 0).vm .C).pend = .recv ∧ 0 < (recvRun 0).q.count (recvRun 0).cfg.capacity :=
  ⟨recvRun_is_run, recvRun_is_fair, inv_of_parts (by decide) (by constructor <;> decide) (by constructor <;> decide)
    (by constructor <;> decide) (by decide) (by decide) (by decide), by decide, by decide⟩

/-- The start of the SEND's run. -/
def sendStart : State :=
  { lagged with
    vmP := { Vm.reset with messagesSent := 3, pend := .send, icount := 999 }
    vmC := { lagged.vmC with running := false } }

/-- The end of the SEND's run, after `n` turns. -/
def sendEnd (n : Nat) : State :=
  { sendStart with
    q := { buffer := [some 0x0001#16, some 0x0002#16, some 0x0003#16, some 0x0000#16], head := 0, tail := 1, tailP := 1, headC := 0 }
    vmP := { Vm.reset with messagesSent := 4, icount := 1000 }
    active := .P
    tick := n }

/-- The run: `SyncTail`, the SEND's attempt, `SyncHead`, and then nothing moves any more. -/
def sendRun : Nat → State
  | 0 => sendStart
  | 1 => { sendStart with q := { sendStart.q with tailP := 1 }, tick := 1 }
  | 2 => { sendEnd 2 with q := { (sendEnd 2).q with headC := 3 } }
  | k + 3 => sendEnd (k + 3)

def sendTurns : Nat → Turn
  | 0 => .syncTail
  | 1 => .vm .P
  | _ + 2 => .syncHead

theorem sendRun_is_run : IsRun sendTurns sendRun
  | 0 => rfl
  | 1 => rfl
  | 2 => rfl
  | _ + 3 => rfl

theorem sendRun_is_fair : WeaklyFair sendTurns sendRun := by
  intro a k
  refine ⟨k + 3, by omega, Or.inr ?_⟩
  rcases a with (_ | _) | _ | _ | _ <;> rfl

theorem witness_FairRunCompletesSend : IsRun sendTurns sendRun ∧ WeaklyFair sendTurns sendRun ∧ (sendRun 0).Inv ∧
    ((sendRun 0).vm .P).pend = .send ∧
    (sendRun 0).q.count (sendRun 0).cfg.capacity < (sendRun 0).cfg.capacity - 1 :=
  ⟨sendRun_is_run, sendRun_is_fair, inv_of_parts (by decide) (by constructor <;> decide) (by constructor <;> decide)
    (by constructor <;> decide) (by decide) (by decide) (by decide), by decide, by decide⟩

/-! #### Launch and end of a run -/

/-- D-IMG-1 and D-IMG-3 as the two images, with registers, flags and memory that are not zero. -/
def launch : Launch :=
  { Launch.reset with
    p := { file := some [0x30#8, 0x00#8, 0xF0#8, 0x25#8], regs := Vector.replicate 8 0xAAAA#16, cond := .n, mem := [(5, 0x0001#16)] }
    c := { Launch.reset.c with file := some [0xFF#8, 0xFF#8, 0xF0#8, 0x25#8] } }

theorem witness_BootEstablishesReset : launch.wf = true ∧ ∃ s, State.boot launch = .next s ∧
    s.vmP.mem.read 0x3000#16 = 0xF025#16 ∧ s.vmC.mem.read 0xFFFF#16 = 0xF025#16 := ⟨by decide, _, rfl, by decide, by decide⟩

theorem witness_BootMeetsInvariant : launch.wf = true ∧ ∃ s, State.boot launch = .next s := ⟨by decide, _, rfl⟩

/-- No file for `VM[P]`, and an image too long (D-IMG-4) for `VM[C]`. -/
theorem witness_ImageFailureStopsBoth : launch.cfg.wf = true ∧
    (let l := { launch with p := { launch.p with file := none } }
     l.cfg.wf = true ∧ l.p.load = none) ∧
    (let l := { launch with c := { launch.c with file := some [0xFF#8, 0xFF#8, 0xF0#8, 0x25#8, 0xF0#8, 0x25#8] } }
     l.cfg.wf = true ∧ l.c.load = none) := by decide

/-- An image that just fits, one that does not (D-IMG-3, D-IMG-4), and an odd file. -/
theorem witness_ImageFormat : (0xFFFF#16).toNat + [0xF025#16].length ≤ 65536 ∧
    ¬ (0xFFFF#16).toNat + [0xF025#16, 0xF025#16].length ≤ 65536 ∧ [0x30#8, 0x00#8, 0xF0#8].length % 2 = 1 := by decide

theorem witness_FinalStateStays : ended.final = true ∧ (∃ t, step (ended.withTurn (.vm .P)) = .next t) ∧
    (ended.withTurn (.vm .P)).final = true := ⟨by decide, ⟨_, rfl⟩, by decide⟩

/-- The wrap from `N-1` to 0 among them. -/
theorem witness_GrayCrossing : 0 < 2 ^ 1 ∧ 3 < 2 ^ 2 ∧ 1 ≤ 2 ∧ (3 + 1) % 2 ^ 2 = 0 := by decide

end Sys2Proof.Tests
end

section
/-! Proofs for 00_scope.md: sign and zero extension of a field (R13), and that no step changes the parameters
(R10). -/

namespace Sys2Proof.Machine

/-! ### Sign extension and zero extension, for every width up to a word -/

/-- R13's formula reads the top bit as the comparison with `2^(k-1)`. -/
theorem sext_toNat {k : Nat} (hk : k ≤ 16) (f : BitVec k) : (sext f).toNat = sextNat k f.toNat := by
  rw [sext, BitVec.toNat_signExtend, BitVec.toNat_setWidth_of_le hk, BitVec.msb_eq_decide, sextNat]
  by_cases h : f.toNat < 2 ^ (k - 1)
  · simp [h, Nat.not_le.mpr h]
  · simp [h, Nat.not_lt.mp h]

/-- What the formula adds for a negative field is a multiple of `2^k`. -/
theorem sextNat_mod {k n : Nat} (hk : k ≤ 16) (hn : n < 2 ^ k) : sextNat k n % 2 ^ k = n := by
  have hdvd : 2 ^ k ∣ 65536 - 2 ^ k := Nat.dvd_sub (Nat.pow_dvd_pow 2 hk) dvd_rfl
  rw [sextNat]
  split
  · exact Nat.mod_eq_of_lt hn
  · rw [Nat.add_mod, Nat.mod_eq_zero_of_dvd hdvd, Nat.add_zero, Nat.mod_mod, Nat.mod_eq_of_lt hn]

theorem sext_getLsbD_high {k i : Nat} (f : BitVec k) (hki : k ≤ i) (hi : i < 16) :
    (sext f).getLsbD i = f.getLsbD (k - 1) := by
  rw [sext, BitVec.getLsbD_signExtend, if_neg (Nat.not_lt.mpr hki), BitVec.msb_eq_getLsbD_last]
  simp [hi]

theorem sext_toInt {k : Nat} (hk : k ≤ 16) (f : BitVec k) : (sext f).toInt = f.toInt :=
  BitVec.toInt_signExtend_of_le hk

theorem zext_toNat {k : Nat} (hk : k ≤ 16) (f : BitVec k) : (zext f).toNat = f.toNat :=
  BitVec.toNat_setWidth_of_le hk

/-- Settles O6, from the laws of `sext` and `zext` for every width up to 16. -/
theorem signExtension : Obligations.SignExtension := by
  intro k hmem f
  have hk : k ≤ 16 := by
    simp only [List.mem_cons, List.not_mem_nil, or_false] at hmem
    omega
  have hlow : (sext f).toNat % 2 ^ k = f.toNat := by rw [sext_toNat hk, sextNat_mod hk f.isLt]
  rw [sext_toInt hk]
  exact ⟨hlow, fun _ => sext_getLsbD_high f, sext_toNat hk f, rfl, f.le_toInt, f.toInt_lt, zext_toNat hk f⟩

/-! ### The parameters -/

@[simp] theorem State.fetched_cfg (s : State) (v : VmId) : (s.fetched v).cfg = s.cfg := by
  simp [State.fetched]

theorem State.RestKept.cfg_eq {s t : State} (h : s.RestKept t) : t.cfg = s.cfg := h.1

/-- Settles O39: a Sync step and the turn of a terminated instance do not touch the parameters, and an
instruction and an attempt leave them alone. -/
theorem stepKeepsConfig : Obligations.StepKeepsConfig := by
  intro s t h
  rcases step_cases h with ⟨_, rfl⟩ | ⟨_, rfl⟩ | ⟨v, _, ⟨_, _, rfl⟩ | ⟨_, _, hexec⟩ | ⟨_, hsend⟩ | ⟨_, hrecv⟩⟩
  · simp
  · simp
  · simp
  · exact (exec_rest hexec).cfg_eq.trans (s.fetched_cfg v)
  · exact (State.attemptSend_rest hsend).cfg_eq.trans (s.turnOf_cfg v)
  · exact (State.attemptRecv_rest hrecv).cfg_eq.trans (s.turnOf_cfg v)

end Sys2Proof.Machine
end

section
/-! Proofs for 10_state.md: which step writes which piece of state (R30 to R39, R130), the ring as a queue (R132), and
the values at reset (R44). -/

namespace Sys2Proof.Machine

/-! ### What an instruction does to the executing instance -/

/-- `x[7] <- pc` where `TRAP_SAVES_R7` (R201, D5). -/
def Vm.link (saves : Bool) (x : Vm) : Vm := if saves then x.setReg 7 x.pc else x

@[simp] theorem Vm.link_pc (b : Bool) (x : Vm) : (x.link b).pc = x.pc := by cases b <;> rfl
@[simp] theorem Vm.link_cond (b : Bool) (x : Vm) : (x.link b).cond = x.cond := by cases b <;> rfl
@[simp] theorem Vm.link_running (b : Bool) (x : Vm) : (x.link b).running = x.running := by cases b <;> rfl
@[simp] theorem Vm.link_icount (b : Bool) (x : Vm) : (x.link b).icount = x.icount := by cases b <;> rfl
@[simp] theorem Vm.link_messagesSent (b : Bool) (x : Vm) : (x.link b).messagesSent = x.messagesSent := by
  cases b <;> rfl
@[simp] theorem Vm.link_messagesReceived (b : Bool) (x : Vm) : (x.link b).messagesReceived = x.messagesReceived := by
  cases b <;> rfl
@[simp] theorem Vm.link_receiveSpinIterations (b : Bool) (x : Vm) :
    (x.link b).receiveSpinIterations = x.receiveSpinIterations := by cases b <;> rfl
theorem Vm.link_regsKept (b : Bool) (x : Vm) : x.RegsKept (x.link b) (if b then [7] else []) := by
  cases b
  · exact fun _ _ => rfl
  · exact fun r hr => x.setReg_reg_ne x.pc (by simpa using hr)

/-- The register, flags and count of an instruction that ends in a result (R170). -/
def Vm.operate (dr : RegId) (v : Word) (x : Vm) : Vm := ((x.setReg dr v).setCond (condOf v)).count

/-- How LD of the value `v` ends (R181). -/
def Vm.loadReg (setsCC : Bool) (dr : RegId) (v : Word) (x : Vm) : Vm :=
  if setsCC then x.operate dr v else (x.setReg dr v).count

@[simp] theorem Vm.loadReg_true (dr : RegId) (v : Word) (x : Vm) : x.loadReg true dr v = x.operate dr v := rfl
@[simp] theorem Vm.loadReg_false (dr : RegId) (v : Word) (x : Vm) : x.loadReg false dr v = (x.setReg dr v).count := rfl
@[simp] theorem Vm.loadReg_pc (b : Bool) (dr : RegId) (v : Word) (x : Vm) : (x.loadReg b dr v).pc = x.pc := by
  cases b <;> rfl
@[simp] theorem Vm.loadReg_running (b : Bool) (dr : RegId) (v : Word) (x : Vm) :
    (x.loadReg b dr v).running = x.running := by cases b <;> rfl

/-- What an instruction makes of the instance that executes it; for SEND and RECV, what it makes of it before the
first attempt. -/
def effectOn (c : Config) (i : Instr) (x : Vm) : Vm :=
  match i with
  | .br mask off9 => (x.setPc (if branchTaken mask x.cond then pcRel9 x.pc off9 else x.pc)).count
  | .addReg dr sr1 sr2 => x.operate dr (x.reg sr1 + x.reg sr2)
  | .addImm dr sr1 imm5 => x.operate dr (x.reg sr1 + immOperand imm5)
  | .andReg dr sr1 sr2 => x.operate dr (x.reg sr1 &&& x.reg sr2)
  | .andImm dr sr1 imm5 => x.operate dr (x.reg sr1 &&& immOperand imm5)
  | .not dr sr => x.operate dr (~~~ x.reg sr)
  | .ld dr off9 => x.loadReg c.ldSetsCC dr (x.mem.read (pcRel9 x.pc off9))
  | .st sr off9 => (x.store (pcRel9 x.pc off9) (x.reg sr)).count
  | .jsr off11 => ((x.setReg 7 x.pc).setPc (pcRel11 x.pc off11)).count
  | .jmp baseR => (x.setPc (x.reg baseR)).count
  | .trapOut => (x.link c.trapSavesR7).count
  | .trapHalt => (x.link c.trapSavesR7).halt.count
  | .trapSend => (x.link c.trapSavesR7).setPend .send
  | .trapRecv => (x.link c.trapSavesR7).setPend .recv
  | .trapOther _ => x.count
  | .unrec6 => x.count
  | .unrec7 => x.count
  | .unrec8 => x.count
  | .unrecA => x.count
  | .unrecB => x.count
  | .unrecD => x.count
  | .unrecE => x.count

/-- A word that no instruction claims is at most counted (R212, R220). -/
theorem effectOn_unclaimed {i : Instr} (h : unclaimed i = true) (c : Config) (x : Vm) : effectOn c i x = x.count := by
  cases i with
  | trapOther _ | unrec6 | unrec7 | unrec8 | unrecA | unrecB | unrecD | unrecE => rfl
  | _ => cases h

theorem exec_local_cur {i : Instr} {s t : State} (hs : i ≠ .trapSend) (hr : i ≠ .trapRecv)
    (h : exec i s = .next t) : t.cur = effectOn s.cfg i s.cur := by
  rcases hu : unclaimed i
  · cases i with
    | trapSend => exact absurd rfl hs
    | trapRecv => exact absurd rfl hr
    | ld dr off9 =>
      cases h
      cases hc : s.cfg.ldSetsCC <;> simp [effectOn, Vm.operate, hc]
    | trapOther _ | unrec6 | unrec7 | unrec8 | unrecA | unrecB | unrecD | unrecE => cases hu
    | _ => cases h; simp [effectOn, Vm.operate, Vm.link]
  · rw [exec_unclaimed hu] at h
    rw [State.unrecognised_next h, State.updCur_cur, effectOn_unclaimed hu]

/-- What an attempt of SEND makes of the instance, if it goes on (R206). -/
inductive Vm.SendAttempt (x : Vm) : Vm → Prop
  | waits : x.SendAttempt x
  | done : x.SendAttempt x.sendDone

/-- What an attempt of RECV makes of the instance, if it goes on (R207). -/
inductive Vm.RecvAttempt (x : Vm) : Vm → Prop
  | waits : x.RecvAttempt x.countSpin
  | done (v : Word) : x.RecvAttempt (x.recvDone v)

/-- What the execute phase of an instruction makes of the instance, if it goes on (R153). -/
inductive Vm.Executes (c : Config) (x : Vm) : Instr → Vm → Prop
  | send {y : Vm} (h : (effectOn c .trapSend x).SendAttempt y) : x.Executes c .trapSend y
  | recv {y : Vm} (h : (effectOn c .trapRecv x).RecvAttempt y) : x.Executes c .trapRecv y
  | other {i : Instr} (hs : i ≠ .trapSend) (hr : i ≠ .trapRecv) : x.Executes c i (effectOn c i x)

theorem attemptSend_cur {s t : State} (h : s.attemptSend = .next t) : s.cur.SendAttempt t.cur := by
  rcases State.attemptSend_cases s with ⟨_, e⟩ | ⟨_, _, e⟩ | ⟨_, _, e⟩ <;> rw [e] at h <;> cases h
  · simpa using Vm.SendAttempt.waits
  · simpa using Vm.SendAttempt.done

theorem attemptRecv_cur {s t : State} (h : s.attemptRecv = .next t) : s.cur.RecvAttempt t.cur := by
  rcases State.attemptRecv_cases s with ⟨_, e⟩ | ⟨_, _, e⟩ | ⟨_, _, v, _, e⟩ | ⟨_, _, _, e⟩ <;> rw [e] at h <;> cases h
  · simpa using Vm.RecvAttempt.waits
  · simpa using Vm.RecvAttempt.done v

/-- A fetched SEND makes its first attempt at once (R206, log entry 11). -/
theorem exec_trapSend (s : State) : exec .trapSend s = (s.updCur (effectOn s.cfg .trapSend)).attemptSend := by
  rw [exec, execTrapSend, State.trapEntry_eq, State.updCur_updCur]; rfl

/-- A fetched RECV makes its first attempt at once (R207, log entry 11). -/
theorem exec_trapRecv (s : State) : exec .trapRecv s = (s.updCur (effectOn s.cfg .trapRecv)).attemptRecv := by
  rw [exec, execTrapRecv, State.trapEntry_eq, State.updCur_updCur]; rfl

/-- Everything that an instruction can make of the instance that executes it. -/
theorem exec_executes {i : Instr} {s t : State} (h : exec i s = .next t) : s.cur.Executes s.cfg i t.cur := by
  by_cases hs : i = .trapSend
  · subst hs
    rw [exec_trapSend] at h
    exact .send (by simpa only [State.updCur_cur] using attemptSend_cur h)
  by_cases hr : i = .trapRecv
  · subst hr
    rw [exec_trapRecv] at h
    exact .recv (by simpa only [State.updCur_cur] using attemptRecv_cur h)
  rw [exec_local_cur hs hr h]
  exact .other hs hr

/-! ### The condition register (R32, R33) -/

theorem condReads_condOf (v : Word) : CondReads (condOf v) v := by
  have hz : v = 0#16 ↔ v.toNat = 0 := BitVec.toNat_inj.symm
  have hn : v.getLsbD 15 = true ↔ 0x8000 ≤ v.toNat := by
    rw [← BitVec.msb_eq_getLsbD_last, BitVec.msb_eq_decide]; simp
  rw [CondReads, condOf]
  split_ifs with h0 hneg
  · simp [hz.mp h0]
  · rw [hn] at hneg
    simp; omega
  · rw [hz] at h0
    rw [hn] at hneg
    simp; omega

theorem Vm.operate_condReads (x : Vm) (dr : RegId) (v : Word) :
    CondReads (x.operate dr v).cond ((x.operate dr v).reg dr) := by
  simpa [Vm.operate] using condReads_condOf v

theorem Vm.recvDone_condReads (x : Vm) (v : Word) : CondReads (x.recvDone v).cond ((x.recvDone v).reg 0) := by
  simpa [Vm.recvDone] using condReads_condOf v

theorem effectOn_cond {c : Config} {i : Instr} (h : writesCond c i = false ∨ i = .trapRecv) (x : Vm) :
    (effectOn c i x).cond = x.cond := by
  cases i with
  | ld dr off9 =>
    have hc : c.ldSetsCC = false := by simpa [writesCond] using h
    simp [effectOn, hc]
  | _ => simp_all [effectOn, writesCond]

namespace Vm.Executes

variable {c : Config} {x y : Vm} {i : Instr}

theorem eq_effectOn (h : x.Executes c i y) (hs : i ≠ .trapSend) (hr : i ≠ .trapRecv) : y = effectOn c i x := by
  cases h with
  | send _ => exact absurd rfl hs
  | recv _ => exact absurd rfl hr
  | other _ _ => rfl

theorem cond_eq (h : x.Executes c i y) (hw : writesCond c i = false) : y.cond = x.cond := by
  cases h with
  | send h =>
    cases h with
    | waits => exact effectOn_cond (.inl hw) x
    | done => exact effectOn_cond (.inl hw) x
  | recv _ => cases hw
  | other _ _ => exact effectOn_cond (.inl hw) x

/-- A RECV that stays pending leaves `COND` alone. -/
theorem cond_eq_of_recv_waits (h : x.Executes c .trapRecv y) (hp : y.pend = .recv) : y.cond = x.cond := by
  cases h with
  | recv h =>
    cases h with
    | waits => exact effectOn_cond (.inr rfl) x
    | done v => cases hp
  | other _ hr => exact absurd rfl hr

/-- A RECV that completes sets `COND` from the value it received. -/
theorem condReads_of_recv_done (h : x.Executes c .trapRecv y) (hp : y.pend = .none) : CondReads y.cond (y.reg 0) := by
  cases h with
  | recv h =>
    cases h with
    | waits => cases hp
    | done v => exact Vm.recvDone_condReads _ v
  | other _ hr => exact absurd rfl hr

end Vm.Executes

/-- Settles O7: ADD, AND, NOT and LD end in an operate result, and RECV in `recvDone`; both set `COND` by
`condOf`. -/
theorem condFollowsResult : Obligations.CondFollowsResult := by
  refine ⟨condReads_condOf, fun s t i h => ?_⟩
  have hx := exec_executes h
  refine ⟨?_, ?_, ?_, ?_, ?_⟩
  · rintro dr sr1 sr2 (rfl | rfl) <;> rw [hx.eq_effectOn (by simp) (by simp)] <;> exact Vm.operate_condReads ..
  · rintro dr sr1 imm5 (rfl | rfl) <;> rw [hx.eq_effectOn (by simp) (by simp)] <;> exact Vm.operate_condReads ..
  · rintro dr sr rfl
    rw [hx.eq_effectOn (by simp) (by simp)]
    exact Vm.operate_condReads ..
  · rintro dr off9 rfl hc
    rw [hx.eq_effectOn (by simp) (by simp)]
    simp only [effectOn, hc]
    exact Vm.operate_condReads ..
  · rintro rfl hp
    exact hx.condReads_of_recv_done hp

theorem State.RestKept.active_eq {s t : State} (h : s.RestKept t) : t.active = s.active := h.2.1

theorem State.RestKept.other_eq {s t : State} (h : s.RestKept t) : t.vm s.active.other = s.vm s.active.other :=
  h.2.2.2.2

/-- Settles O32: of the executing instance by what the instruction can make of it, of the other instance because
it is left alone. -/
theorem onlyTabledInstructionsWriteCond : Obligations.OnlyTabledInstructionsWriteCond := by
  intro i s t h
  have hx := exec_executes h
  refine ⟨hx.cond_eq, ?_, by rw [(exec_rest h).other_eq]⟩
  rintro rfl hp
  exact hx.cond_eq_of_recv_waits hp

/-! ### The general registers (R30) -/

theorem Vm.setReg_regsKept (x : Vm) (r : RegId) (v : Word) : x.RegsKept (x.setReg r v) [r] :=
  fun _ hr => x.setReg_reg_ne v (by simpa using hr)

theorem Vm.recvDone_regsKept (x : Vm) (v : Word) : x.RegsKept (x.recvDone v) [0] := x.setReg_regsKept 0 v

theorem effectOn_regsKept (c : Config) (i : Instr) (x : Vm) : x.RegsKept (effectOn c i x) (writesRegs c i) := by
  cases i with
  | addReg dr sr1 sr2 => exact x.setReg_regsKept dr _
  | addImm dr sr1 imm5 => exact x.setReg_regsKept dr _
  | andReg dr sr1 sr2 => exact x.setReg_regsKept dr _
  | andImm dr sr1 imm5 => exact x.setReg_regsKept dr _
  | not dr sr => exact x.setReg_regsKept dr _
  | ld dr off9 =>
    cases hc : c.ldSetsCC <;> simp only [effectOn, hc] <;> exact x.setReg_regsKept dr _
  | jsr off11 => exact x.setReg_regsKept 7 _
  | trapOut => exact x.link_regsKept _
  | trapHalt => exact x.link_regsKept _
  | trapSend => exact x.link_regsKept _
  | trapRecv =>
    intro r hr
    refine x.link_regsKept _ r ?_
    cases h : c.trapSavesR7 <;> simp_all [writesRegs]
  | _ => exact fun _ _ => rfl

theorem zero_mem_writesRegs_trapRecv (c : Config) : 0 ∈ writesRegs c .trapRecv := by
  simp only [writesRegs]; split <;> simp

theorem Vm.Executes.regsKept {c : Config} {x y : Vm} {i : Instr} (h : x.Executes c i y) :
    x.RegsKept y (writesRegs c i) := by
  cases h with
  | send h =>
    cases h with
    | waits => exact effectOn_regsKept c .trapSend x
    | done => exact effectOn_regsKept c .trapSend x
  | recv h =>
    cases h with
    | waits => exact effectOn_regsKept c .trapRecv x
    | done v =>
      intro r hr
      have h0 : r ≠ 0 := fun e => hr (e ▸ zero_mem_writesRegs_trapRecv c)
      rw [Vm.recvDone_regsKept _ v r (by simpa using h0), effectOn_regsKept c .trapRecv x r hr]
  | other _ _ => exact effectOn_regsKept c i x

/-- Settles O31, register by register of the table. -/
theorem onlyTabledRegistersWritten : Obligations.OnlyTabledRegistersWritten := fun _ _ _ h =>
  ⟨(exec_executes h).regsKept, (exec_rest h).active_eq, by rw [(exec_rest h).other_eq]⟩

/-! ### The pc and `running` (R31, R35) -/

theorem effectOn_pc {c : Config} {i : Instr} {x : Vm} (h : (effectOn c i x).pc ≠ x.pc) :
    (∃ mask off9, i = .br mask off9 ∧ branchTaken mask x.cond = true) ∨ (∃ off11, i = .jsr off11) ∨
    (∃ baseR, i = .jmp baseR) := by
  cases i with
  | br mask off9 =>
    refine .inl ⟨mask, off9, rfl, ?_⟩
    by_contra hb
    exact h (by simp [effectOn, hb])
  | jsr off11 => exact .inr (.inl ⟨off11, rfl⟩)
  | jmp baseR => exact .inr (.inr ⟨baseR, rfl⟩)
  | _ => exact absurd (by simp [effectOn, Vm.operate]) h

/-- Neither attempt writes the pc. -/
theorem Vm.Executes.pc_eq_effectOn {c : Config} {x y : Vm} {i : Instr} (h : x.Executes c i y) :
    y.pc = (effectOn c i x).pc := by
  cases h with
  | send h => cases h <;> rfl
  | recv h => cases h <;> rfl
  | other _ _ => rfl

/-- Settles O33: of what an instruction makes of the instance only a taken BR, JSR and JMP write the pc, and no
attempt does. -/
theorem onlyTransfersWritePc : Obligations.OnlyTransfersWritePc := fun _ s _ h hne =>
  effectOn_pc (c := s.cfg) ((exec_executes h).pc_eq_effectOn ▸ hne)

theorem effectOn_running {c : Config} {i : Instr} (h : i ≠ .trapHalt) (x : Vm) :
    (effectOn c i x).running = x.running := by
  cases i with
  | trapHalt => exact absurd rfl h
  | _ => simp [effectOn, Vm.operate]

theorem Vm.SendAttempt.running_eq {x y : Vm} (h : x.SendAttempt y) : y.running = x.running := by cases h <;> rfl

theorem Vm.RecvAttempt.running_eq {x y : Vm} (h : x.RecvAttempt y) : y.running = x.running := by cases h <;> rfl

/-- Only HALT changes `running`, and it clears it. -/
theorem Vm.Executes.running_ne {c : Config} {x y : Vm} {i : Instr} (h : x.Executes c i y)
    (hne : y.running ≠ x.running) : i = .trapHalt ∧ x.running = true := by
  cases h with
  | send h => exact absurd (h.running_eq.trans (effectOn_running (by simp) x)) hne
  | recv h => exact absurd (h.running_eq.trans (effectOn_running (by simp) x)) hne
  | other _ _ =>
    by_cases hi : i = .trapHalt
    · subst hi
      exact ⟨rfl, by simpa [effectOn] using Ne.symm hne⟩
    · exact absurd (effectOn_running hi x) hne

/-! ### What a step does to an instance -/

/-- The instance as it executes the instruction that it has fetched: its pc is the next address (R151). -/
def Vm.fetched (x : Vm) : Vm := x.setPc (nextAddr x.pc)

@[simp] theorem State.fetched_cur (s : State) (v : VmId) : (s.fetched v).cur = (s.vm v).fetched := by
  simp [State.fetched, Vm.fetched]
@[simp] theorem State.fetched_active (s : State) (v : VmId) : (s.fetched v).active = v := by simp [State.fetched]
@[simp] theorem State.fetched_vm_other (s : State) (v : VmId) : (s.fetched v).vm v.other = s.vm v.other := by
  simp [State.fetched]
@[simp] theorem State.fetched_q (s : State) (v : VmId) : (s.fetched v).q = s.q := by simp [State.fetched]
@[simp] theorem State.fetched_out (s : State) (v : VmId) : (s.fetched v).out = s.out := by simp [State.fetched]

theorem State.RestKept.vm_eq {s t : State} {v : VmId} (h : s.RestKept t) (hv : s.active = v) : t.vm v = t.cur := by
  rw [← hv, ← h.active_eq, State.vm_active]

/-- Everything that the turn of an instance can make of it. -/
inductive Vm.Turns (c : Config) (x : Vm) : Vm → Prop
  | stays : x.Turns c x
  | executes {y : Vm} (hp : x.pend = .none) (h : x.fetched.Executes c (decode (x.mem.read x.pc)) y) : x.Turns c y
  | sends {y : Vm} (hp : x.pend = .send) (h : x.SendAttempt y) : x.Turns c y
  | receives {y : Vm} (hp : x.pend = .recv) (h : x.RecvAttempt y) : x.Turns c y

/-- A step changes an instance only in that instance's turn. -/
theorem step_vm_of_turn_ne {s t : State} {v : VmId} (h : step s = .next t) (hv : s.turn ≠ .vm v) :
    t.vm v = s.vm v := by
  rcases step_cases h with ⟨_, rfl⟩ | ⟨_, rfl⟩ | ⟨u, hu, ha⟩
  · simp
  · simp
  obtain rfl : v = u.other := (VmId.eq_or_eq_other v u).resolve_left fun e => hv (e ▸ hu)
  rcases ha with ⟨_, _, rfl⟩ | ⟨_, _, he⟩ | ⟨_, he⟩ | ⟨_, he⟩
  · simp
  · simpa using (exec_rest he).other_eq
  · simpa using (State.attemptSend_rest he).other_eq
  · simpa using (State.attemptRecv_rest he).other_eq

theorem step_vm_of_turn {s t : State} {v : VmId} (h : step s = .next t) (hv : s.turn = .vm v) :
    (s.vm v).Turns s.cfg (t.vm v) := by
  rcases step_cases h with ⟨hu, _⟩ | ⟨hu, _⟩ | ⟨u, hu, ha⟩
  · rw [hv] at hu; cases hu
  · rw [hv] at hu; cases hu
  obtain rfl : v = u := by rw [hv] at hu; cases hu; rfl
  rcases ha with ⟨_, _, rfl⟩ | ⟨hp, _, he⟩ | ⟨hp, he⟩ | ⟨hp, he⟩
  · simpa using Vm.Turns.stays
  · rw [(exec_rest he).vm_eq (s.fetched_active v)]
    exact .executes hp (by simpa [State.wordAtPc] using exec_executes he)
  · rw [(State.attemptSend_rest he).vm_eq (s.turnOf_active v)]
    exact .sends hp (by simpa using attemptSend_cur he)
  · rw [(State.attemptRecv_rest he).vm_eq (s.turnOf_active v)]
    exact .receives hp (by simpa using attemptRecv_cur he)

theorem Vm.Turns.running_ne {c : Config} {x y : Vm} (h : x.Turns c y) (hne : y.running ≠ x.running) :
    x.running = true ∧ x.pend = .none ∧ decode (x.mem.read x.pc) = .trapHalt := by
  cases h with
  | stays => exact absurd rfl hne
  | executes hp h =>
    obtain ⟨hi, hr⟩ := h.running_ne hne
    exact ⟨hr, hp, hi⟩
  | sends _ h => exact absurd h.running_eq hne
  | receives _ h => exact absurd h.running_eq hne

/-! ### Launch (R44, R264) -/

/-- Everything a launch that is not refused has constructed (R262). -/
theorem boot_next {l : Launch} {s : State} (h : State.boot l = .next s) :
    l.cfg.wf = true ∧ ∃ p c, l.p.load = some p ∧ l.c.load = some c ∧
      s = { cfg := l.cfg, q := Ring.reset l.cfg.capacity, producer := none, consumer := none,
            vmP := p, vmC := c, out := [], active := .P, sched := [], tick := 0 } := by
  rw [State.boot] at h
  split at h
  · next hwf =>
    refine ⟨hwf, ?_⟩
    split at h
    · next p c hp hc => exact ⟨p, c, hp, hc, by cases h; rfl⟩
    · cases h
    · cases h
  · cases h

/-- Each instance of a launch that is not refused is constructed from an image that parses (R264). -/
theorem boot_vm {l : Launch} {s : State} (h : State.boot l = .next s) (v : VmId) :
    ∃ file im, (l.vm v).file = some file ∧ parseImage file = some im ∧ s.vm v = Vm.construct (l.vm v) im := by
  obtain ⟨_, p, c, hp, hc, e⟩ := boot_next h
  have hv : (l.vm v).load = some (s.vm v) := by
    rw [e]
    cases v
    · exact hp
    · exact hc
  obtain ⟨im, him, hx⟩ := Option.map_eq_some_iff.mp hv
  obtain ⟨file, hfile, hparse⟩ := Option.bind_eq_some_iff.mp him
  exact ⟨file, im, hfile, hparse, hx.symm⟩

theorem boot_running {l : Launch} {s : State} (h : State.boot l = .next s) (v : VmId) : (s.vm v).running = true := by
  obtain ⟨_, _, _, _, e⟩ := boot_vm h v
  rw [e]; rfl

/-- Settles O35: a step changes an instance in its own turn only, and there only HALT changes `running`. -/
theorem onlyHaltClearsRunning : Obligations.OnlyHaltClearsRunning := by
  refine ⟨⟨rfl, rfl⟩, fun l s h => ⟨boot_running h .P, boot_running h .C⟩, fun s t v h hne => ?_⟩
  have hv : s.turn = .vm v := by
    by_contra hv
    exact hne (by rw [step_vm_of_turn_ne h hv])
  obtain ⟨hr, hp, hd⟩ := (step_vm_of_turn h hv).running_ne hne
  exact ⟨hr, hv, hp, hd⟩

/-! ### The counters (R36) -/

/-- What R36 lets the counters of an instance do in one step. -/
def Vm.CountersGrow (x y : Vm) : Prop :=
  x.icount ≤ y.icount ∧ y.icount ≤ x.icount + 1 ∧ x.messagesSent ≤ y.messagesSent ∧
    x.messagesReceived ≤ y.messagesReceived ∧
    y.messagesSent + y.messagesReceived + x.icount ≤ x.messagesSent + x.messagesReceived + y.icount ∧
    x.receiveSpinIterations ≤ y.receiveSpinIterations ∧
    y.receiveSpinIterations + y.icount ≤ x.receiveSpinIterations + x.icount + 1

/-- The four counters of an instance. -/
def Vm.counters (x : Vm) : Nat × Nat × Nat × Nat :=
  (x.icount, x.messagesSent, x.messagesReceived, x.receiveSpinIterations)

theorem Vm.CountersGrow.of_counters_eq {x x' y : Vm} (h : x'.CountersGrow y) (e : x'.counters = x.counters) :
    x.CountersGrow y := by
  simp only [Vm.counters, Prod.mk.injEq] at e
  obtain ⟨hi, hs, hr, hp⟩ := e
  simpa only [Vm.CountersGrow, hi, hs, hr, hp] using h

theorem Vm.CountersGrow.refl (x : Vm) : x.CountersGrow x := by simp [Vm.CountersGrow]

theorem Vm.CountersGrow.of_counted {x y : Vm} (h : x.Counted y) : x.CountersGrow y := by
  obtain ⟨hi, hs, hr, hp⟩ := h
  simp only [Vm.CountersGrow, hi, hs, hr, hp]
  omega

theorem Vm.SendAttempt.countersGrow {x y : Vm} (h : x.SendAttempt y) : x.CountersGrow y := by
  cases h with
  | waits => exact .refl x
  | done => simp [Vm.CountersGrow, Vm.sendDone]; omega

theorem Vm.RecvAttempt.countersGrow {x y : Vm} (h : x.RecvAttempt y) : x.CountersGrow y := by
  cases h with
  | waits => simp [Vm.CountersGrow]; omega
  | done v => simp [Vm.CountersGrow, Vm.recvDone]; omega

theorem effectOn_counted {i : Instr} (hs : i ≠ .trapSend) (hr : i ≠ .trapRecv) (c : Config) (x : Vm) :
    x.Counted (effectOn c i x) := by
  cases i with
  | trapSend => exact absurd rfl hs
  | trapRecv => exact absurd rfl hr
  | ld dr off9 =>
    cases hc : c.ldSetsCC <;> simp [effectOn, hc, Vm.operate, Vm.Counted]
  | _ => simp [effectOn, Vm.operate, Vm.Counted]

theorem Vm.Executes.countersGrow {c : Config} {x y : Vm} {i : Instr} (h : x.Executes c i y) : x.CountersGrow y := by
  cases h with
  | send h => exact h.countersGrow.of_counters_eq (by simp [Vm.counters, effectOn])
  | recv h => exact h.countersGrow.of_counters_eq (by simp [Vm.counters, effectOn])
  | other hs hr => exact .of_counted (effectOn_counted hs hr c x)

theorem Vm.Turns.countersGrow {c : Config} {x y : Vm} (h : x.Turns c y) : x.CountersGrow y := by
  cases h with
  | stays => exact .refl x
  | executes _ h => exact h.countersGrow.of_counters_eq rfl
  | sends _ h => exact h.countersGrow
  | receives _ h => exact h.countersGrow

/-- Settles O38: in the instance's own turn by what the turn can make of it, in any other turn because nothing of it
changes. -/
theorem countersOnlyGrow : Obligations.CountersOnlyGrow := by
  intro s t v h
  have hgrow : (s.vm v).CountersGrow (t.vm v) := by
    by_cases hv : s.turn = .vm v
    · exact (step_vm_of_turn h hv).countersGrow
    · rw [step_vm_of_turn_ne h hv]
      exact .refl _
  obtain ⟨hi, hi1, hs, hr, hm, hp, hp1⟩ := hgrow
  refine ⟨hi, hi1, hs, hr, hm, hp, hp1, fun hv => ?_⟩
  rw [step_vm_of_turn_ne h hv]
  exact ⟨rfl, rfl, rfl, rfl⟩

/-! ### The output stream (R39, R204) -/

theorem lowByte_eq (v : Word) : lowByte v = BitVec.ofNat 8 (v.toNat % 256) := extract_eq_ofNat v 7 0 8 rfl |>.trans
  (by simp [wordBits])

theorem attemptSend_out {s t : State} (h : s.attemptSend = .next t) : t.out = s.out := by
  rcases State.attemptSend_cases s with ⟨_, e⟩ | ⟨_, _, e⟩ | ⟨_, _, e⟩ <;> rw [e] at h <;> cases h <;> simp

theorem attemptRecv_out {s t : State} (h : s.attemptRecv = .next t) : t.out = s.out := by
  rcases State.attemptRecv_cases s with ⟨_, e⟩ | ⟨_, _, e⟩ | ⟨_, _, v, _, e⟩ | ⟨_, _, _, e⟩ <;> rw [e] at h <;>
    cases h <;> simp

/-- An instruction other than OUT emits nothing. -/
theorem exec_out_eq {i : Instr} {s t : State} (hi : i ≠ .trapOut) (h : exec i s = .next t) : t.out = s.out := by
  rcases hu : unclaimed i
  · cases i with
    | trapOut => exact absurd rfl hi
    | trapSend => exact (attemptSend_out h).trans (by simp)
    | trapRecv => exact (attemptRecv_out h).trans (by simp)
    | trapOther _ | unrec6 | unrec7 | unrec8 | unrecA | unrecB | unrecD | unrecE => cases hu
    | _ => cases h; simp
  · rw [exec_unclaimed hu] at h
    rw [State.unrecognised_next h, State.updCur_out]

theorem exec_trapOut_out {s t : State} (h : exec .trapOut s = .next t) : t.out = s.out ++ [lowByte (s.cur.reg 0)] := by
  cases h; simp

/-- Settles O36: of the turns only the execute phase of OUT emits, and the fetch leaves `x[0]` alone. -/
theorem onlyOutEmits : Obligations.OnlyOutEmits := by
  intro s t h hne
  rcases step_cases h with ⟨_, rfl⟩ | ⟨_, rfl⟩ | ⟨v, hv, ⟨_, _, rfl⟩ | ⟨hp, _, he⟩ | ⟨_, he⟩ | ⟨_, he⟩⟩
  · exact absurd rfl hne
  · exact absurd rfl hne
  · exact absurd rfl hne
  · by_cases hi : decode (s.wordAtPc v) = .trapOut
    · refine ⟨v, hv, hp, hi, ?_⟩
      rw [exec_trapOut_out (hi ▸ he), lowByte_eq, s.fetched_out, s.fetched_cur]
      rfl
    · exact absurd ((exec_out_eq hi he).trans (s.fetched_out v)) hne
  · exact absurd ((attemptSend_out he).trans (s.turnOf_out v)) hne
  · exact absurd ((attemptRecv_out he).trans (s.turnOf_out v)) hne

/-! ### Who writes the ring (R130 (a)) -/

/-- What the turn of the executing instance can do to the ring, starting from `s`. -/
structure State.OwnerMoves (s t : State) : Prop where
  push : t.q.head ≠ s.q.head ∨ t.q.buffer ≠ s.q.buffer →
    t.totalSent = s.totalSent + 1 ∧ t.q.head = (s.q.head + 1) % s.cfg.capacity ∧ t.producer = some t.active
  pop : t.q.tail ≠ s.q.tail →
    t.totalReceived = s.totalReceived + 1 ∧ t.q.tail = (s.q.tail + 1) % s.cfg.capacity ∧ t.consumer = some t.active
  tailView : t.q.tailP ≠ s.q.tailP →
    t.producer = some t.active ∧ t.consumer = some t.active ∧ t.q.tailP = s.q.tail
  headView : t.q.headC ≠ s.q.headC →
    t.producer = some t.active ∧ t.consumer = some t.active ∧ t.q.headC = s.q.head

theorem State.OwnerMoves.of_ring_eq {s t : State} (h : t.q = s.q) : s.OwnerMoves t := by
  constructor <;> simp [h]

theorem State.totalSent_eq (s : State) (v : VmId) :
    s.totalSent = (s.vm v).messagesSent + (s.vm v.other).messagesSent := by
  cases v
  · rfl
  · exact Nat.add_comm ..

theorem State.totalReceived_eq (s : State) (v : VmId) :
    s.totalReceived = (s.vm v).messagesReceived + (s.vm v.other).messagesReceived := by
  cases v
  · rfl
  · exact Nat.add_comm ..

/-- A change of the executing instance that keeps its message counters does not matter to who moves the ring. -/
theorem State.OwnerMoves.of_updCur {s t : State} {f : Vm → Vm} (h : (s.updCur f).OwnerMoves t)
    (hs : (f s.cur).messagesSent = s.cur.messagesSent) (hr : (f s.cur).messagesReceived = s.cur.messagesReceived) :
    s.OwnerMoves t := by
  have hsent : (s.updCur f).totalSent = s.totalSent := by
    rw [State.totalSent_eq _ s.active, State.totalSent_eq s s.active]
    simp [hs, State.vm_active]
  have hreceived : (s.updCur f).totalReceived = s.totalReceived := by
    rw [State.totalReceived_eq _ s.active, State.totalReceived_eq s s.active]
    simp [hr, State.vm_active]
  obtain ⟨hpush, hpop, htail, hhead⟩ := h
  rw [hsent] at hpush
  rw [hreceived] at hpop
  simp only [State.updCur_q, State.updCur_cfg] at hpush hpop htail hhead
  exact ⟨hpush, hpop, htail, hhead⟩

/-- Taking the turn moves nothing of the ring and counts nothing. -/
theorem State.OwnerMoves.of_turnOf {s t : State} {v : VmId} (h : (s.turnOf v).OwnerMoves t) : s.OwnerMoves t :=
  ⟨h.push, h.pop, h.tailView, h.headView⟩

/-- A view that R135 may have made current has changed only if the instance has both roles. -/
theorem State.bindPush_views (s : State) :
    (s.bindPush.q.tailP ≠ s.q.tailP → s.consumer = some s.active ∧ s.bindPush.q.tailP = s.q.tail) ∧
    (s.bindPush.q.headC ≠ s.q.headC → s.consumer = some s.active ∧ s.bindPush.q.headC = s.q.head) := by
  rw [State.bindPush_q]
  split_ifs with h
  · exact ⟨fun _ => ⟨h, rfl⟩, fun _ => ⟨h, rfl⟩⟩
  · exact ⟨fun hne => absurd rfl hne, fun hne => absurd rfl hne⟩

theorem State.bindPop_views (s : State) :
    (s.bindPop.q.tailP ≠ s.q.tailP → s.producer = some s.active ∧ s.bindPop.q.tailP = s.q.tail) ∧
    (s.bindPop.q.headC ≠ s.q.headC → s.producer = some s.active ∧ s.bindPop.q.headC = s.q.head) := by
  rw [State.bindPop_q]
  split_ifs with h
  · exact ⟨fun _ => ⟨h, rfl⟩, fun _ => ⟨h, rfl⟩⟩
  · exact ⟨fun hne => absurd rfl hne, fun hne => absurd rfl hne⟩

theorem State.attemptSend_ownerMoves {s t : State} (h : s.attemptSend = .next t) : s.OwnerMoves t := by
  obtain ⟨htailP, hheadC⟩ := s.bindPush_views
  rcases State.attemptSend_cases s with ⟨_, e⟩ | ⟨_, _, e⟩ | ⟨_, _, e⟩ <;> rw [e] at h <;> cases h
  · exact ⟨by simp, by simp, by simpa using htailP, by simpa using hheadC⟩
  · refine ⟨fun _ => ⟨?_, by simp [Ring.pushed], by simp⟩, by simp [Ring.pushed], by simpa [Ring.pushed] using htailP,
      by simpa [Ring.pushed] using hheadC⟩
    rw [State.totalSent_eq _ s.active, State.totalSent_eq s s.active]
    simp [Vm.sendDone, State.vm_active]; omega

theorem State.attemptRecv_ownerMoves {s t : State} (h : s.attemptRecv = .next t) : s.OwnerMoves t := by
  obtain ⟨htailP, hheadC⟩ := s.bindPop_views
  rcases State.attemptRecv_cases s with ⟨_, e⟩ | ⟨_, _, e⟩ | ⟨_, _, v, _, e⟩ | ⟨_, _, _, e⟩ <;> rw [e] at h <;> cases h
  · exact ⟨by simp, by simp, by simpa using htailP, by simpa using hheadC⟩
  · refine ⟨by simp [Ring.popped], fun _ => ⟨?_, by simp [Ring.popped], by simp⟩, by simpa [Ring.popped] using htailP,
      by simpa [Ring.popped] using hheadC⟩
    rw [State.totalReceived_eq _ s.active, State.totalReceived_eq s s.active]
    simp [Vm.recvDone, State.vm_active]; omega

theorem exec_ownerMoves {i : Instr} {s t : State} (h : exec i s = .next t) : s.OwnerMoves t := by
  by_cases hs : i = .trapSend
  · subst hs
    rw [exec_trapSend] at h
    exact (State.attemptSend_ownerMoves h).of_updCur (by simp [effectOn]) (by simp [effectOn])
  by_cases hr : i = .trapRecv
  · subst hr
    rw [exec_trapRecv] at h
    exact (State.attemptRecv_ownerMoves h).of_updCur (by simp [effectOn]) (by simp [effectOn])
  obtain ⟨hq, _, _⟩ := (exec_next_local hs hr h).ring
  exact .of_ring_eq hq

theorem Ring.syncHead_headC_of_ne {n : Nat} {q : Ring} (h : (q.syncHead n).headC ≠ q.headC) :
    (q.syncHead n).headC = (q.headC + 1) % n := by
  unfold Ring.syncHead at *
  split_ifs at *
  · rfl
  · exact absurd rfl h

theorem Ring.syncTail_tailP_of_ne {n : Nat} {q : Ring} (h : (q.syncTail n).tailP ≠ q.tailP) :
    (q.syncTail n).tailP = (q.tailP + 1) % n := by
  unfold Ring.syncTail at *
  split_ifs at *
  · rfl
  · exact absurd rfl h

/-- A step that moves an index or writes a slot is the turn of an instance, and what moves is its own. -/
theorem step_ownerMoves {s t : State} (h : step s = .next t) :
    (s.turn = .syncHead ∧ t.q = s.q.syncHead s.cfg.capacity) ∨
    (s.turn = .syncTail ∧ t.q = s.q.syncTail s.cfg.capacity) ∨
    t.q = s.q ∨ (s.turn = .vm t.active ∧ s.OwnerMoves t) := by
  rcases step_cases h with ⟨hv, rfl⟩ | ⟨hv, rfl⟩ | ⟨v, hv, ⟨_, _, rfl⟩ | ⟨_, _, he⟩ | ⟨_, he⟩ | ⟨_, he⟩⟩
  · exact .inl ⟨hv, rfl⟩
  · exact .inr (.inl ⟨hv, rfl⟩)
  · exact .inr (.inr (.inl rfl))
  · have ha : t.active = v := (exec_rest he).active_eq.trans (s.fetched_active v)
    have hm : (s.turnOf v).OwnerMoves t := (exec_ownerMoves he).of_updCur (f := (·.setPc _)) rfl rfl
    exact .inr (.inr (.inr ⟨ha ▸ hv, hm.of_turnOf⟩))
  · have ha : t.active = v := (State.attemptSend_rest he).active_eq
    exact .inr (.inr (.inr ⟨ha ▸ hv, (State.attemptSend_ownerMoves he).of_turnOf⟩))
  · have ha : t.active = v := (State.attemptRecv_rest he).active_eq
    exact .inr (.inr (.inr ⟨ha ▸ hv, (State.attemptRecv_ownerMoves he).of_turnOf⟩))

/-- Settles O37: a Sync step moves one view, and the turn of an instance moves what its SEND or RECV owns. -/
theorem indicesMoveOnlyByTheirOwners : Obligations.IndicesMoveOnlyByTheirOwners := by
  intro s t h
  rcases step_ownerMoves h with ⟨hv, hq⟩ | ⟨hv, hq⟩ | hq | ⟨hv, hpush, hpop, htail, hhead⟩
  · rw [hq]
    exact ⟨by simp, by simp, by simp, fun hne => .inl ⟨hv, Ring.syncHead_headC_of_ne hne⟩⟩
  · rw [hq]
    exact ⟨by simp, by simp, fun hne => .inl ⟨hv, Ring.syncTail_tailP_of_ne hne⟩, by simp⟩
  · rw [hq]
    exact ⟨by simp, by simp, by simp, by simp⟩
  · refine ⟨fun hne => ?_, fun hne => ?_, fun hne => .inr ?_, fun hne => .inr ?_⟩
    · obtain ⟨hsent, hidx, hrole⟩ := hpush hne
      exact ⟨hsent, hidx, hrole, hv⟩
    · obtain ⟨hreceived, hidx, hrole⟩ := hpop hne
      exact ⟨hreceived, hidx, hrole, hv⟩
    · obtain ⟨hp, hc, hview⟩ := htail hne
      exact ⟨hp, hc, hv, hview⟩
    · obtain ⟨hp, hc, hview⟩ := hhead hne
      exact ⟨hp, hc, hv, hview⟩

/-! ### The ring as a queue (R25, R132, R133) -/

/-- The outstanding items depend on the slots and the two true indices only (R25). -/
theorem Ring.contents_congr {n : Nat} {q q' : Ring} (hb : q'.buffer = q.buffer) (hh : q'.head = q.head)
    (ht : q'.tail = q.tail) : q'.contents n = q.contents n := by
  simp [Ring.contents, Ring.slot, Ring.count_congr hh ht, hb, ht]

namespace Ring.Inv

variable {n : Nat} {q : Ring}

theorem contents_length (h : q.Inv n) : (q.contents n).length = q.count n := by
  have hsome : ∀ j ∈ List.range (q.count n),
      q.slot ((q.tail + j) % n) = some ((q.slot ((q.tail + j) % n)).getD unlistedCell) := by
    intro j hj
    obtain ⟨v, hv⟩ := Option.isSome_iff_exists.mp (h.written j (List.mem_range.mp hj))
    rw [hv]; rfl
  rw [Ring.contents, List.filterMap_eq_map_iff_forall_eq_some.mpr hsome, List.length_map, List.length_range]

theorem pushed_contents (h : q.Inv n) (hne : (q.head + 1) % n ≠ q.tailP) (v : Word) :
    (q.pushed n v).contents n = q.contents n ++ [v] := by
  have hold : ∀ j ∈ List.range (q.count n),
      (q.pushed n v).slot ((q.tail + j) % n) = q.slot ((q.tail + j) % n) := by
    intro j hj
    refine Ring.slot_set_ne fun e => ?_
    have hlt := h.count_lt
    have hj := List.mem_range.mp hj
    rw [h.head_eq] at e
    exact absurd (h.slot_index_inj (by omega) hlt e) (by omega)
  have hnew : (q.pushed n v).slot ((q.tail + q.count n) % n) = some v := by
    rw [← h.head_eq]
    exact Ring.slot_set (by rw [h.slots]; exact h.head_lt)
  have htail : (q.pushed n v).tail = q.tail := rfl
  rw [Ring.contents, h.pushed_count hne, List.range_succ, List.filterMap_append, htail, List.filterMap_congr hold,
    Ring.contents]
  simp only [List.filterMap_cons, hnew, List.filterMap_nil]

theorem popped_contents (h : q.Inv n) (hne : q.headC ≠ q.tail) {v : Word} (hv : q.slot q.tail = some v) :
    q.contents n = v :: (q.popped n).contents n := by
  have hfirst : q.slot ((q.tail + 0) % n) = some v := by rw [Nat.add_zero, Nat.mod_eq_of_lt h.tail_lt, hv]
  rw [Ring.contents, ← h.popped_count hne, List.range_succ_eq_map, List.filterMap_cons_some (by exact hfirst),
    List.filterMap_map, Ring.contents]
  congr 1
  refine List.filterMap_congr fun j _ => ?_
  simp [Ring.popped, Ring.slot, Nat.add_assoc, Nat.add_comm 1 j]

end Ring.Inv

/-- Settles O43: an operation that succeeds is `pushed` or `popped`, and a Sync step keeps what the items depend on. -/
theorem ringActsAsQueue : Obligations.RingActsAsQueue := by
  intro n q h
  refine ⟨fun v q' hpush => ?_, fun v q' hpop => ?_, Ring.contents_congr (by simp) (by simp) (by simp),
    Ring.contents_congr (by simp) (by simp) (by simp), h.contents_length, h.contents_length ▸ h.count_lt⟩
  · rcases Ring.push_cases n q v with ⟨_, e⟩ | ⟨hne, e⟩ <;> rw [e] at hpush <;> cases hpush
    exact h.pushed_contents hne v
  · rcases Ring.pop_cases n q with ⟨_, e⟩ | ⟨hne, w, hw, e⟩ | ⟨_, _, e⟩ <;> rw [e] at hpop <;> cases hpop
    exact h.popped_contents hne hw

/-! ### The values at reset (R44, R264) -/

theorem parseImage_fits {file : List Byte} {im : Image} (h : parseImage file = some im) :
    im.origin.toNat + im.words.length ≤ 65536 := by
  rw [parseImage] at h
  split at h
  · cases h
  · cases h
  · split_ifs at h with hfit
    cases h
    exact hfit

/-- Words stored from `a` up leave the cells outside their range as they were. -/
theorem Memory.read_writeAll_outside {m : Memory} {a : Word} {ws : List Word} (hm : m.wf = true)
    (hfit : a.toNat + ws.length ≤ 65536) {b : Word} (hb : b.toNat < a.toNat ∨ a.toNat + ws.length ≤ b.toNat) :
    (m.writeAll a ws).read b = m.read b := by
  induction ws generalizing m a with
  | nil => rfl
  | cons w ws ih =>
    have hnext : (nextAddr a).toNat = (a.toNat + 1) % 65536 := by simp [nextAddr]
    have hba : b ≠ a := by
      rintro rfl
      simp at hb
    simp only [List.length_cons] at hfit hb
    rw [Memory.writeAll, ih (Memory.write_wf a w hm) (by omega) (by omega), Memory.read_write hm, if_neg hba]

/-- Words stored from `a` up are read back from there, one cell each (R264). -/
theorem Memory.read_writeAll_getElem {m : Memory} {a : Word} {ws : List Word} (hm : m.wf = true)
    (hfit : a.toNat + ws.length ≤ 65536) (i : Nat) (hi : i < ws.length) :
    (m.writeAll a ws).read (BitVec.ofNat 16 (a.toNat + i)) = ws[i] := by
  induction ws generalizing m a i with
  | nil => cases hi
  | cons w ws ih =>
    have hwf := Memory.write_wf a w hm
    have hnext : (nextAddr a).toNat = (a.toNat + 1) % 65536 := by simp [nextAddr]
    simp only [List.length_cons] at hfit hi
    rw [Memory.writeAll]
    cases i with
    | zero =>
      have ha : BitVec.ofNat 16 (a.toNat + 0) = a := by simp
      rw [ha, Memory.read_writeAll_outside hwf (by omega) (by omega), Memory.read_write hm, if_pos rfl]
      rfl
    | succ i =>
      have ha : a.toNat + (i + 1) = (nextAddr a).toNat + i := by omega
      rw [ha, ih hwf (by omega) i (by omega)]
      rfl

theorem Launch.vm_mem_wf {l : Launch} (h : l.wf = true) (v : VmId) : (l.vm v).mem.wf = true := by
  simp only [Launch.wf, Bool.and_eq_true] at h
  cases v
  · exact h.1
  · exact h.2

/-- Settles O55: the shared state by `boot_next`, each instance by `boot_vm` and the two laws of `writeAll`. -/
theorem bootEstablishesReset : Obligations.BootEstablishesReset := by
  intro l s hl h
  have hvm (v : VmId) := boot_vm h v
  obtain ⟨_, p, c, _, _, rfl⟩ := boot_next h
  refine ⟨rfl, rfl, rfl, rfl, rfl, rfl, rfl, rfl, rfl, fun v => ?_⟩
  obtain ⟨file, im, hfile, him, hv⟩ := hvm v
  rw [hv]
  have hm := Launch.vm_mem_wf hl v
  exact ⟨file, im, hfile, him, fun _ => rfl, rfl, rfl, Memory.read_writeAll_getElem hm (parseImage_fits him),
    fun _ => Memory.read_writeAll_outside hm (parseImage_fits him), rfl, rfl, rfl, rfl, rfl, rfl⟩

theorem Ring.reset_count {n : Nat} : (Ring.reset n).count n = 0 := by simp [Ring.reset, Ring.count]

theorem Ring.reset_slot (n i : Nat) : (Ring.reset n).slot i = none := by
  rw [Ring.slot, Option.join_eq_none_iff]
  by_cases h : i < n <;> simp [Ring.reset, h]

theorem Vm.construct_inv {l : VmLaunch} (h : l.mem.wf = true) (im : Image) (budget : Nat) :
    (Vm.construct l im).Inv budget :=
  ⟨Memory.writeAll_wf im.origin im.words h, Nat.zero_le _, fun hp => absurd rfl hp⟩

/-- Settles O56: the ring is as constructed, and no instance has sent, received or begun anything. -/
theorem bootMeetsInvariant : Obligations.BootMeetsInvariant := by
  intro l s hl h
  have hvm (v : VmId) := boot_vm h v
  have hidle (v : VmId) : (s.vm v).messagesSent = 0 ∧ (s.vm v).messagesReceived = 0 ∧ (s.vm v).pend = .none := by
    obtain ⟨_, im, _, _, hv⟩ := hvm v
    rw [hv]
    exact ⟨rfl, rfl, rfl⟩
  obtain ⟨hwf, p, c, _, _, e⟩ := boot_next h
  have hcfg : s.cfg = l.cfg := by rw [e]
  have hq : s.q = Ring.reset s.cfg.capacity := by rw [e]
  constructor
  case config => rw [hcfg, hwf]
  case ring => rw [hq]; exact Ring.reset_inv (Nat.two_pow_pos _)
  case vms =>
    intro v
    obtain ⟨_, im, _, _, hv⟩ := hvm v
    rw [hv]
    exact Vm.construct_inv (Launch.vm_mem_wf hl v) im _
  case balance =>
    obtain ⟨hsP, hrP, _⟩ := hidle .P
    obtain ⟨hsC, hrC, _⟩ := hidle .C
    simp only [State.vm] at hsP hrP hsC hrC
    rw [hq, Ring.reset_count, hsP, hrP, hsC, hrC]
  case sender =>
    intro v hv
    obtain ⟨hs, _, hp⟩ := hidle v
    simp [hs, hp] at hv
  case receiver =>
    intro v hv
    obtain ⟨_, hr, hp⟩ := hidle v
    simp [hr, hp] at hv

/-- Settles O49: reset is the launch of two empty images. -/
theorem resetMeetsInvariant : Obligations.ResetMeetsInvariant := by
  have hboot : State.boot Launch.reset = .next State.reset := rfl
  refine ⟨bootMeetsInvariant _ _ (by decide) hboot, rfl, rfl, rfl, rfl, Ring.reset_slot _, rfl, fun v => ?_⟩
  cases v <;> exact ⟨rfl, rfl, rfl, rfl, rfl, rfl⟩

/-! ### The parameter `UNRECOGNIZED` at `refuse` (R42, U1, U2) -/

theorem exec_unclaimed_refuse {i : Instr} {s : State} (hi : unclaimed i = true) (h : s.cfg.unrecognized = .refuse) :
    exec i s = .refused .unrecognisedWord := by
  rw [exec_unclaimed hi, State.unrecognised_refuse h]

theorem Vm.mayIterate_of_lt {x : Vm} {budget : Nat} (hr : x.running = true) (hb : x.icount < budget) :
    x.mayIterate budget = true := by simp [Vm.mayIterate, hr, hb]

/-- Settles O26: a step that fetches such a word executes it under the same parameters. -/
theorem refuseParameterRefuses : Obligations.RefuseParameterRefuses := by
  refine ⟨fun _ s h => exec_unclaimed_refuse rfl h, fun i hi s h => exec_unclaimed_refuse ?_ h, ?_⟩
  · have hall : ∀ i ∈ [Instr.unrec6, .unrec7, .unrec8, .unrecA, .unrecB, .unrecD, .unrecE], unclaimed i = true := by
      decide
    exact hall i hi
  · intro s v hv hp hr hb h hu
    rw [step_iterate hv hp (Vm.mayIterate_of_lt hr hb)]
    exact exec_unclaimed_refuse hu (by rw [s.fetched_cfg, h])

end Sys2Proof.Machine
end

section
/-! Proofs for 20_memory.md: that one instance's own state is out of the other's reach (R71, R239, R242), what a
step does to a memory (R61, R81), and how the ring's views catch up with its indices (R76, R126, R135, R282). -/

namespace Sys2Proof.Machine

/-! ### One attempt of SEND and of RECV, case by case (R206, R207) -/

theorem State.attemptSend_of_not_mayPush {s : State} (h : ¬ s.mayPush) :
    s.attemptSend = .fault (.spscViolation s.active .push) := by
  rcases State.attemptSend_cases s with ⟨_, e⟩ | ⟨hm, _⟩ | ⟨hm, _⟩
  · exact e
  · exact absurd hm h
  · exact absurd hm h

theorem State.attemptSend_of_full {s : State} (h : s.mayPush) (hf : (s.q.head + 1) % s.cfg.capacity = s.seenTail) :
    s.attemptSend = .next s.bindPush := by
  rcases State.attemptSend_cases s with ⟨hm, _⟩ | ⟨_, _, e⟩ | ⟨_, hr, _⟩
  · exact absurd h hm
  · exact e
  · exact absurd hf hr

theorem State.attemptSend_of_room {s : State} (h : s.mayPush) (hr : (s.q.head + 1) % s.cfg.capacity ≠ s.seenTail) :
    s.attemptSend =
      .next ((s.bindPush.setRing (s.bindPush.q.pushed s.cfg.capacity (s.cur.reg 0))).updCur Vm.sendDone) := by
  rcases State.attemptSend_cases s with ⟨hm, _⟩ | ⟨_, hf, _⟩ | ⟨_, _, e⟩
  · exact absurd h hm
  · exact absurd hf hr
  · exact e

theorem State.attemptRecv_of_not_mayPop {s : State} (h : ¬ s.mayPop) :
    s.attemptRecv = .fault (.spscViolation s.active .pop) := by
  rcases State.attemptRecv_cases s with ⟨_, e⟩ | ⟨hm, _⟩ | ⟨hm, _⟩ | ⟨hm, _⟩
  · exact e
  · exact absurd hm h
  · exact absurd hm h
  · exact absurd hm h

theorem State.attemptRecv_of_empty {s : State} (h : s.mayPop) (he : s.seenHead = s.q.tail) :
    s.attemptRecv = .next (s.bindPop.updCur Vm.countSpin) := by
  rcases State.attemptRecv_cases s with ⟨hm, _⟩ | ⟨_, _, e⟩ | ⟨_, hi, _⟩ | ⟨_, hi, _⟩
  · exact absurd h hm
  · exact e
  · exact absurd he hi
  · exact absurd he hi

theorem State.attemptRecv_of_item {s : State} (h : s.mayPop) (hi : s.seenHead ≠ s.q.tail) {v : Word}
    (hv : s.q.slot s.q.tail = some v) :
    s.attemptRecv = .next ((s.bindPop.setRing (s.bindPop.q.popped s.cfg.capacity)).updCur (Vm.recvDone v)) := by
  rcases State.attemptRecv_cases s with ⟨hm, _⟩ | ⟨_, he, _⟩ | ⟨_, _, w, hw, e⟩ | ⟨_, _, hn, _⟩
  · exact absurd h hm
  · exact absurd he hi
  · cases hv.symm.trans hw
    exact e
  · cases hv.symm.trans hn

theorem State.attemptRecv_of_unwritten {s : State} (h : s.mayPop) (hi : s.seenHead ≠ s.q.tail)
    (hv : s.q.slot s.q.tail = none) : s.attemptRecv = .fault .unwrittenSlot := by
  rcases State.attemptRecv_cases s with ⟨hm, _⟩ | ⟨_, he, _⟩ | ⟨_, _, _, hw, _⟩ | ⟨_, _, _, e⟩
  · exact absurd h hm
  · exact absurd he hi
  · cases hv.symm.trans hw
  · exact e

/-! ### What the other instance holds (R71, R239, R242) -/

/-- What OUT emits, and no other instruction does (R204). -/
def emitted (i : Instr) (x : Vm) : List Byte := if i = .trapOut then [lowByte (x.reg 0)] else []

/-- The machine after an instruction other than SEND and RECV that goes on. -/
def State.localEffect (i : Instr) (s : State) : State :=
  { s.updCur (effectOn s.cfg i) with out := s.out ++ emitted i s.cur }

@[simp] theorem State.localEffect_vm (i : Instr) (s : State) (v : VmId) :
    (s.localEffect i).vm v = (s.updCur (effectOn s.cfg i)).vm v := by cases v <;> rfl
theorem State.localEffect_restKept (i : Instr) (s : State) : s.RestKept (s.localEffect i) :=
  ⟨State.updCur_cfg .., State.updCur_active .., State.updCur_sched .., State.updCur_tick .., by simp⟩
theorem State.localEffect_ringKept (i : Instr) (s : State) : s.RingKept (s.localEffect i) := by
  simp [State.localEffect, State.RingKept]
@[simp] theorem State.localEffect_cur (i : Instr) (s : State) : (s.localEffect i).cur = effectOn s.cfg i s.cur := by
  rw [← (s.localEffect_restKept i).vm_eq rfl, State.localEffect_vm, State.updCur_vm, if_pos rfl]

/-- What is kept, the output and the executing instance make up the state. -/
theorem State.ext_of_kept {s t u : State} (hr : s.RestKept t) (hq : s.RingKept t) (hr' : s.RestKept u)
    (hq' : s.RingKept u) (ho : t.out = u.out) (hc : t.cur = u.cur) : t = u := by
  obtain ⟨hcfg, hact, hsched, htick, hoth⟩ := hr
  obtain ⟨hring, hprod, hcons⟩ := hq
  obtain ⟨hcfg', hact', hsched', htick', hoth'⟩ := hr'
  obtain ⟨hring', hprod', hcons'⟩ := hq'
  have hvm : t.vmP = u.vmP ∧ t.vmC = u.vmC := by
    rw [State.cur, State.cur, hact, hact'] at hc
    rw [← hoth'] at hoth
    revert hoth hc
    cases s.active
    · exact fun hP hC => ⟨hP, hC⟩
    · exact fun hC hP => ⟨hP, hC⟩
  cases t; cases u
  simp_all

theorem exec_out {i : Instr} {s t : State} (h : exec i s = .next t) : t.out = s.out ++ emitted i s.cur := by
  rw [emitted]
  split
  · next hi => exact exec_trapOut_out (hi ▸ h)
  · next hi => rw [exec_out_eq hi h, List.append_nil]

/-- What an instruction other than SEND and RECV does: it changes the executing instance and the output, or it stands
for an unrecognised word and `UNRECOGNIZED` is `refuse` (R42, R160). -/
theorem exec_local_eq {i : Instr} (hs : i ≠ .trapSend) (hr : i ≠ .trapRecv) (s : State) :
    exec i s = if unclaimed i = true ∧ s.cfg.unrecognized = .refuse then .refused .unrecognisedWord
      else .next (s.localEffect i) := by
  split
  · next h => exact exec_unclaimed_refuse h.1 h.2
  · next h =>
    rcases exec_local i s hs hr with ⟨t, e, hl⟩ | ⟨hu, hc, _⟩
    · rw [e, State.ext_of_kept hl.rest hl.ring (s.localEffect_restKept i) (s.localEffect_ringKept i) (exec_out e)
        ((exec_local_cur hs hr e).trans (s.localEffect_cur i).symm)]
    · exact absurd ⟨hu, hc⟩ h

/-- An outcome with its next state, if it has one, changed by `f`. -/
def mapNext (f : State → State) : Host.Outcome State Fault Refusal → Host.Outcome State Fault Refusal
  | .next t => .next (f t)
  | .fault r => .fault r
  | .refused r => .refused r

@[simp] theorem mapNext_next (f : State → State) (t : State) : mapNext f (.next t) = .next (f t) := rfl
@[simp] theorem mapNext_fault (f : State → State) (r : Fault) : mapNext f (.fault r) = .fault r := rfl
@[simp] theorem mapNext_refused (f : State → State) (r : Refusal) : mapNext f (.refused r) = .refused r := rfl

/-- Two states that `v` cannot tell apart differ in the other instance only. -/
theorem State.AgreeFor.eq_setVm {v : VmId} {s1 s2 : State} (h : State.AgreeFor v s1 s2) :
    s2 = s1.setVm v.other (s2.vm v.other) := by
  obtain ⟨hcfg, hq, hp, hc, hvm, ho, ha, hs, ht⟩ := h
  cases s1; cases s2
  cases v <;> simp_all [State.setVm, State.vm, VmId.other]

theorem State.setVm_other_vm (s : State) (v : VmId) (y : Vm) : (s.setVm v.other y).vm v = s.vm v :=
  State.setVm_vm_ne s y (VmId.other_ne v).symm

theorem State.agreeFor_setVm_other (v : VmId) (s : State) (y : Vm) : State.AgreeFor v s (s.setVm v.other y) := by
  simp [State.AgreeFor, State.setVm_other_vm]

section

variable {s : State} {v : VmId} (y : Vm)

theorem State.setVm_other_turnOf : (s.setVm v.other y).turnOf v = (s.turnOf v).setVm v.other y := by
  cases v <;> rfl

theorem State.setVm_other_wordAtPc : (s.setVm v.other y).wordAtPc v = s.wordAtPc v := by
  rw [State.wordAtPc, State.setVm_other_vm, State.wordAtPc]

section

variable (hv : s.active = v)
include hv

theorem State.setVm_other_cur : (s.setVm v.other y).cur = s.cur := by
  subst hv
  rw [State.cur, State.setVm_active, State.setVm_other_vm, State.vm_active]

theorem State.setVm_other_updCur (f : Vm → Vm) : (s.setVm v.other y).updCur f = (s.updCur f).setVm v.other y := by
  rw [State.updCur, State.setVm_other_cur y hv, State.setVm_active, State.updCur, hv]
  cases v <;> rfl

theorem State.setVm_other_localEffect (i : Instr) :
    (s.setVm v.other y).localEffect i = (s.localEffect i).setVm v.other y := by
  simp only [State.localEffect, State.setVm_other_updCur y hv, State.setVm_other_cur y hv, State.setVm_cfg,
    State.setVm_out]
  cases v <;> rfl

theorem State.setVm_other_bindPush : (s.setVm v.other y).bindPush = s.bindPush.setVm v.other y := by
  rw [State.bindPush_eq, State.bindPush_eq s, State.bindPush_q, State.bindPush_q]
  cases v <;> rfl

theorem State.setVm_other_bindPop : (s.setVm v.other y).bindPop = s.bindPop.setVm v.other y := by
  rw [State.bindPop_eq, State.bindPop_eq s, State.bindPop_q, State.bindPop_q]
  cases v <;> rfl

theorem State.setVm_other_attemptSend :
    (s.setVm v.other y).attemptSend = mapNext (·.setVm v.other y) s.attemptSend := by
  have hcur := State.setVm_other_cur y hv
  have hbind := State.setVm_other_bindPush y hv
  rcases s.attemptSend_cases with ⟨hm, e⟩ | ⟨hm, hf, e⟩ | ⟨hm, hr, e⟩ <;> rw [e]
  · rw [State.attemptSend_of_not_mayPush (by simpa [State.mayPush] using hm)]
    simp
  · rw [State.attemptSend_of_full (by simpa [State.mayPush] using hm) (by simpa [State.seenTail] using hf), hbind]
    simp
  · rw [State.attemptSend_of_room (by simpa [State.mayPush] using hm) (by simpa [State.seenTail] using hr), hbind, hcur]
    simp only [mapNext_next, State.setVm_q, State.setVm_cfg]
    rw [← State.setVm_other_updCur y (by simpa using hv)]
    cases v <;> rfl

theorem State.setVm_other_attemptRecv :
    (s.setVm v.other y).attemptRecv = mapNext (·.setVm v.other y) s.attemptRecv := by
  have hbind := State.setVm_other_bindPop y hv
  rcases s.attemptRecv_cases with
    ⟨hm, e⟩ | ⟨hm, he, e⟩ | ⟨hm, hi, w, hw, e⟩ | ⟨hm, hi, hw, e⟩ <;> rw [e]
  · rw [State.attemptRecv_of_not_mayPop (by simpa [State.mayPop] using hm)]
    simp
  · rw [State.attemptRecv_of_empty (by simpa [State.mayPop] using hm) (by simpa [State.seenHead] using he), hbind,
      State.setVm_other_updCur y (by simpa using hv)]
    simp
  · rw [State.attemptRecv_of_item (by simpa [State.mayPop] using hm) (by simpa [State.seenHead] using hi)
      (by simpa using hw), hbind]
    simp only [mapNext_next, State.setVm_q, State.setVm_cfg]
    rw [← State.setVm_other_updCur y (by simpa using hv)]
    cases v <;> rfl
  · rw [State.attemptRecv_of_unwritten (by simpa [State.mayPop] using hm) (by simpa [State.seenHead] using hi)
      (by simpa using hw)]
    simp

theorem State.setVm_other_exec (i : Instr) :
    exec i (s.setVm v.other y) = mapNext (·.setVm v.other y) (exec i s) := by
  by_cases hs : i = .trapSend
  · subst hs
    rw [exec_trapSend, exec_trapSend, State.setVm_other_updCur y hv, State.setVm_cfg,
      State.setVm_other_attemptSend y (by simpa using hv)]
  by_cases hr : i = .trapRecv
  · subst hr
    rw [exec_trapRecv, exec_trapRecv, State.setVm_other_updCur y hv, State.setVm_cfg,
      State.setVm_other_attemptRecv y (by simpa using hv)]
  rw [exec_local_eq hs hr, exec_local_eq hs hr, State.setVm_other_localEffect y hv, State.setVm_cfg]
  split <;> rfl

end

theorem State.setVm_other_fetched : (s.setVm v.other y).fetched v = (s.fetched v).setVm v.other y := by
  have hv := s.turnOf_active v
  rw [State.fetched, State.setVm_other_turnOf, State.advancePc_eq, State.setVm_other_cur y hv,
    State.setVm_other_updCur y hv]
  rfl

end

/-- In a turn of `v` the step is the same whatever the other instance holds, and hands it on unchanged. -/
theorem step_setVm_other {s : State} {v : VmId} (y : Vm) (hv : s.turn = .vm v) :
    step (s.setVm v.other y) = mapNext (·.setVm v.other y) (step s) := by
  have hv' : (s.setVm v.other y).turn = .vm v := by rw [← hv]; simp [State.turn]
  have hvm := s.setVm_other_vm v y
  have hactive := s.turnOf_active v
  cases hp : (s.vm v).pend with
  | send =>
    rw [step_send hv hp, step_send hv' (by rw [hvm, hp]), State.setVm_other_turnOf,
      State.setVm_other_attemptSend y hactive]
  | recv =>
    rw [step_recv hv hp, step_recv hv' (by rw [hvm, hp]), State.setVm_other_turnOf,
      State.setVm_other_attemptRecv y hactive]
  | none =>
    have hp' : ((s.setVm v.other y).vm v).pend = .none := by rw [hvm, hp]
    cases hm : (s.vm v).mayIterate (s.cfg.budget v) with
    | true =>
      rw [step_iterate hv hp hm, step_iterate hv' hp' (by rw [hvm, State.setVm_cfg, hm]), State.setVm_other_wordAtPc,
        State.setVm_other_fetched, State.setVm_other_exec y (s.fetched_active v)]
    | false =>
      rw [step_terminated hv hp hm, step_terminated hv' hp' (by rw [hvm, State.setVm_cfg, hm])]
      cases v <;> rfl

/-- Settles O40: a state that agrees with `s1` for `v` is `s1` with the other instance exchanged, and the step of `v`
commutes with that exchange. -/
theorem instancesAreIsolated : Obligations.InstancesAreIsolated := by
  intro v s1 s2 h hv
  have hne : s1.turn ≠ .vm v.other := by rw [hv]; simpa using (VmId.other_ne v).symm
  have hv2 : s2.turn = .vm v := by
    obtain ⟨_, _, _, _, _, _, _, hsched, htick⟩ := h
    rw [← hv, State.turn, State.turn, hsched, htick]
  have hne2 : s2.turn ≠ .vm v.other := by rw [hv2]; simpa using (VmId.other_ne v).symm
  have hstep : step s2 = mapNext (·.setVm v.other (s2.vm v.other)) (step s1) := by
    rw [← step_setVm_other _ hv, ← h.eq_setVm]
  cases e : step s1 with
  | next t =>
    rw [e, mapNext_next] at hstep
    exact .inl ⟨t, _, rfl, hstep, State.agreeFor_setVm_other v t _, step_vm_of_turn_ne e hne,
      step_vm_of_turn_ne hstep hne2⟩
  | fault f => exact .inr (.inl ⟨f, rfl, by rw [hstep, e, mapNext_fault]⟩)
  | refused r => exact .inr (.inr ⟨r, rfl, by rw [hstep, e, mapNext_refused]⟩)

/-! ### Memory (R61, R81) -/

theorem Vm.SendAttempt.mem_eq {x y : Vm} (h : x.SendAttempt y) : y.mem = x.mem := by cases h <;> rfl

theorem Vm.RecvAttempt.mem_eq {x y : Vm} (h : x.RecvAttempt y) : y.mem = x.mem := by cases h <;> rfl

/-- Of what an instruction makes of the instance only ST's store is a change of memory (R61). -/
theorem effectOn_mem (c : Config) (i : Instr) (x : Vm) :
    (effectOn c i x).mem = x.mem ∨
    ∃ sr off9, i = .st sr off9 ∧ (effectOn c i x).mem = x.mem.write (pcRel9 x.pc off9) (x.reg sr) := by
  cases i with
  | st sr off9 => exact .inr ⟨sr, off9, rfl, rfl⟩
  | ld dr off9 => exact .inl (by rw [effectOn, Vm.loadReg]; split <;> rfl)
  | trapOut | trapHalt | trapSend | trapRecv => exact .inl (by simp only [effectOn, Vm.link]; split <;> rfl)
  | _ => exact .inl rfl

theorem Vm.Executes.mem_cases {c : Config} {x y : Vm} {i : Instr} (h : x.Executes c i y) :
    y.mem = x.mem ∨ ∃ sr off9, i = .st sr off9 ∧ y.mem = x.mem.write (pcRel9 x.pc off9) (x.reg sr) := by
  cases h with
  | send h => simpa [h.mem_eq] using effectOn_mem c .trapSend x
  | recv h => simpa [h.mem_eq] using effectOn_mem c .trapRecv x
  | other _ _ => exact effectOn_mem c i x

/-- The turn of an instance changes its memory only by the store of a ST that it has fetched. -/
theorem Vm.Turns.mem_cases {c : Config} {x y : Vm} (h : x.Turns c y) :
    y.mem = x.mem ∨ (x.pend = .none ∧ ∃ sr off9, decode (x.mem.read x.pc) = .st sr off9 ∧
      y.mem = x.mem.write (pcRel9 (nextAddr x.pc) off9) (x.reg sr)) := by
  cases h with
  | stays => exact .inl rfl
  | executes hp h => exact h.mem_cases.imp_right fun hst => ⟨hp, hst⟩
  | sends _ h => exact .inl h.mem_eq
  | receives _ h => exact .inl h.mem_eq

/-- Settles O34: a step changes an instance in its own turn only, there only a ST changes memory, and a store changes
no cell but the addressed one. -/
theorem onlyStoreChangesMemory : Obligations.OnlyStoreChangesMemory := by
  intro s t v a hwf h hne
  have hv : s.turn = .vm v := by
    by_contra hv
    exact hne (by rw [step_vm_of_turn_ne h hv])
  rcases (step_vm_of_turn h hv).mem_cases with hmem | ⟨hp, sr, off9, hd, hmem⟩
  · exact absurd (by rw [hmem]) hne
  · rw [hmem, Memory.read_write hwf] at hne ⊢
    have ha : a = pcRel9 (nextAddr (s.vm v).pc) off9 := by
      by_contra ha
      exact hne (if_neg ha)
    exact ⟨hv, hp, sr, off9, hd, ha, if_pos ha⟩

/-- The effective address is the pc's own cell exactly if the offset is 0. -/
theorem eq_pcRel9_iff (pc : Word) (off9 : BitVec 9) : pc = pcRel9 pc off9 ↔ sextNat 9 off9.toNat = 0 := by
  rw [pcRel9, ← sext_toNat (by decide), left_eq_add, ← BitVec.toNat_inj]
  rfl

/-- Settles O15: the fetch reads the memory after the store at the pc, which a ST leaves alone. -/
theorem fetchSeesStore : Obligations.FetchSeesStore := by
  intro sr off9 s hwf
  refine ⟨_, exec_local_eq (by simp) (by simp) s, ?_⟩
  have hcur : (s.localEffect (.st sr off9)).cur = (s.cur.store (pcRel9 s.cur.pc off9) (s.cur.reg sr)).count :=
    s.localEffect_cur _
  simp only [State.fetchWord, State.load_eq, hcur, Vm.count_mem, Vm.count_pc, Vm.store_mem, Vm.store_pc,
    Memory.read_write hwf, eq_pcRel9_iff]

/-! ### Sync turns (R76, R126) -/

/-- One move of a view that stands at slot `i` towards its index (R126). -/
def chase (n index i : Nat) : Nat := if i ≠ index then (i + 1) % n else i

/-- A view behind its index by at most the usable slots reaches it in as many moves. -/
theorem chase_iterate {n index : Nat} (hindex : index < n) (k i : Nat) (hi : i < n) (hk : (index + n - i) % n ≤ k) :
    (chase n index)^[k] i = index := by
  induction k generalizing i with
  | zero =>
    rw [add_sub_mod hindex hi] at hk
    rw [Function.iterate_zero, id_eq]
    split_ifs at hk <;> omega
  | succ k ih =>
    rw [Function.iterate_succ_apply, chase]
    split
    · next hne =>
      have hi' : (i + 1) % n < n := Nat.mod_lt _ (by omega)
      refine ih _ hi' ?_
      rw [add_sub_mod hindex hi] at hk
      rw [add_sub_mod hindex hi']
      rw [succ_mod hi] at *
      split_ifs at * <;> omega
    · next heq =>
      refine ih i hi ?_
      rw [Decidable.not_not.mp heq, add_sub_mod hindex hindex]
      simp

theorem Ring.syncHead_eq (n : Nat) (q : Ring) : q.syncHead n = { q with headC := chase n q.head q.headC } := by
  unfold Ring.syncHead chase; split <;> rfl

theorem Ring.syncHead_headC (n : Nat) (q : Ring) : (q.syncHead n).headC = chase n q.head q.headC := by
  rw [Ring.syncHead_eq]

theorem Ring.syncTail_eq (n : Nat) (q : Ring) : q.syncTail n = { q with tailP := chase n q.tail q.tailP } := by
  unfold Ring.syncTail chase; split <;> rfl

theorem Ring.syncTail_tailP (n : Nat) (q : Ring) : (q.syncTail n).tailP = chase n q.tail q.tailP := by
  rw [Ring.syncTail_eq]

theorem Ring.syncHead_iterate (n k : Nat) (q : Ring) :
    (Ring.syncHead n)^[k] q = { q with headC := (chase n q.head)^[k] q.headC } := by
  induction k generalizing q with
  | zero => rfl
  | succ k ih => rw [Function.iterate_succ_apply, ih, Ring.syncHead_eq, Function.iterate_succ_apply]

theorem Ring.syncTail_iterate (n k : Nat) (q : Ring) :
    (Ring.syncTail n)^[k] q = { q with tailP := (chase n q.tail)^[k] q.tailP } := by
  induction k generalizing q with
  | zero => rfl
  | succ k ih => rw [Function.iterate_succ_apply, ih, Ring.syncTail_eq, Function.iterate_succ_apply]

/-- A Sync agent's turns, as many as the schedule lists, act on the ring alone. -/
theorem stateAfter_syncTurns {a : Turn} {f : Nat → Ring → Ring}
    (hstep : ∀ s : State, s.turn = a → step s = .next (s.takeTurn.setRing (f s.cfg.capacity s.q))) (k : Nat)
    (s : State) (rest : List Turn) (hs : s.sched = List.replicate k a ++ rest) :
    ∃ t, stateAfter k s = some t ∧ t.q = (f s.cfg.capacity)^[k] s.q ∧ t.sched = rest ∧ ∀ v, t.vm v = s.vm v := by
  induction k generalizing s with
  | zero => exact ⟨s, rfl, rfl, hs, fun _ => rfl⟩
  | succ k ih =>
    have hturn : s.turn = a := by rw [State.turn, hs]; rfl
    obtain ⟨t, ht, hq, hsched, hvm⟩ := ih (s.takeTurn.setRing (f s.cfg.capacity s.q)) (by
      rw [State.setRing_sched, State.takeTurn_sched, hs]; rfl)
    refine ⟨t, ?_, ?_, hsched, fun v => ?_⟩
    · rw [stateAfter, hstep s hturn]
      exact ht
    · rw [hq, Function.iterate_succ_apply]
      rfl
    · rw [hvm v, State.setRing_vm, State.takeTurn_vm]

/-- Settles O42: the turns of a Sync agent iterate its view's move, and a view lags by less than `N`. -/
theorem syncTurnsCatchUp : Obligations.SyncTurnsCatchUp := by
  intro s k rest h hk
  have hlag (d : Nat) : d % s.cfg.capacity ≤ k := by
    have := Nat.mod_lt d h.pos
    omega
  constructor
  · intro hs
    obtain ⟨t, ht, hq, hrest⟩ := stateAfter_syncTurns (fun _ => step_syncHead) k s rest hs
    refine ⟨t, ht, ?_, hrest⟩
    rw [hq, Ring.syncHead_iterate, chase_iterate h.head_lt k _ h.headC_lt (hlag _)]
  · intro hs
    obtain ⟨t, ht, hq, hrest⟩ := stateAfter_syncTurns (fun _ => step_syncTail) k s rest hs
    refine ⟨t, ht, ?_, hrest⟩
    rw [hq, Ring.syncTail_iterate, chase_iterate h.tail_lt k _ h.tailP_lt (hlag _)]

/-! ### An instance with both roles (R135) -/

namespace Ring.Inv

variable {n : Nat} {q : Ring}

theorem count_pos_iff (h : q.Inv n) : 0 < q.count n ↔ q.head ≠ q.tail := by
  have a := h.head_lt
  have b := h.tail_lt
  rw [Ring.count, add_sub_mod a b]
  split_ifs <;> omega

theorem count_room_iff (h : q.Inv n) : q.count n < n - 1 ↔ (q.head + 1) % n ≠ q.tail := by
  have a := h.head_lt
  have b := h.tail_lt
  rw [Ring.count, add_sub_mod a b, succ_mod a]
  split_ifs <;> omega

/-- Where an item is outstanding its slot has a value, whether the consumer sees it or not. -/
theorem tail_written (h : q.Inv n) (hpos : 0 < q.count n) : ∃ v, q.slot q.tail = some v :=
  h.syncAll.oldest_written (h.count_pos_iff.mp hpos)

end Ring.Inv

section

variable {s : State}

/-- The attempt of SEND by an instance with both roles (R135). -/
theorem State.attemptSend_bothRoles (h : s.q.Inv s.cfg.capacity) (hp : s.producer = some s.active)
    (hc : s.consumer = some s.active) (hpend : s.cur.pend = .send) :
    ∃ t, s.attemptSend = .next t ∧ (t.cur.pend = .none ↔ s.q.count s.cfg.capacity < s.cfg.capacity - 1) := by
  have htail : s.seenTail = s.q.tail := if_pos hc
  rw [h.count_room_iff]
  by_cases hr : (s.q.head + 1) % s.cfg.capacity = s.q.tail
  · refine ⟨_, State.attemptSend_of_full (.inr hp) (hr.trans htail.symm), ?_⟩
    simp [hr, hpend]
  · refine ⟨_, State.attemptSend_of_room (.inr hp) (htail ▸ hr), ?_⟩
    simp [hr, Vm.sendDone]

/-- The attempt of RECV by an instance with both roles (R135). -/
theorem State.attemptRecv_bothRoles (h : s.q.Inv s.cfg.capacity) (hp : s.producer = some s.active)
    (hc : s.consumer = some s.active) (hpend : s.cur.pend = .recv) :
    ∃ t, s.attemptRecv = .next t ∧ (t.cur.pend = .none ↔ 0 < s.q.count s.cfg.capacity) := by
  have hhead : s.seenHead = s.q.head := if_pos hp
  rw [h.count_pos_iff]
  by_cases he : s.q.head = s.q.tail
  · refine ⟨_, State.attemptRecv_of_empty (.inr hc) (hhead.trans he), ?_⟩
    simp [he, hpend]
  · obtain ⟨v, hv⟩ := h.tail_written (h.count_pos_iff.mpr he)
    refine ⟨_, State.attemptRecv_of_item (.inr hc) (hhead ▸ he) hv, ?_⟩
    simp [he, Vm.recvDone]

end

/-- Settles O45: the fetched SEND or RECV becomes pending and makes its attempt with both views current. -/
theorem singleAgentIsExact : Obligations.SingleAgentIsExact := by
  intro s h hp hc
  rw [exec_trapSend, exec_trapRecv]
  constructor
  · simpa using State.attemptSend_bothRoles (s := s.updCur (effectOn s.cfg .trapSend)) (by simpa using h)
      (by simpa using hp) (by simpa using hc) (by rw [State.updCur_cur]; rfl)
  · simpa using State.attemptRecv_bothRoles (s := s.updCur (effectOn s.cfg .trapRecv)) (by simpa using h)
      (by simpa using hp) (by simpa using hc) (by rw [State.updCur_cur]; rfl)

/-! ### What the turn of an instance does to the ring -/

theorem State.attemptSend_ring {s t : State} (h : s.attemptSend = .next t) :
    s.mayPush ∧ t.producer = some s.active ∧ t.consumer = s.consumer ∧
    (t.q = s.bindPush.q ∨ ((s.q.head + 1) % s.cfg.capacity ≠ s.seenTail ∧
      t.q = s.bindPush.q.pushed s.cfg.capacity (s.cur.reg 0))) := by
  rcases s.attemptSend_cases with ⟨_, e⟩ | ⟨hm, _, e⟩ | ⟨hm, hr, e⟩ <;> rw [e] at h <;> cases h
  · exact ⟨hm, by simp, by simp, .inl rfl⟩
  · exact ⟨hm, by simp, by simp, .inr ⟨hr, by simp⟩⟩

theorem State.attemptRecv_ring {s t : State} (h : s.attemptRecv = .next t) :
    s.mayPop ∧ t.consumer = some s.active ∧ t.producer = s.producer ∧
    (t.q = s.bindPop.q ∨ (s.seenHead ≠ s.q.tail ∧ t.q = s.bindPop.q.popped s.cfg.capacity)) := by
  rcases s.attemptRecv_cases with ⟨_, e⟩ | ⟨hm, _, e⟩ | ⟨hm, hi, _, _, e⟩ | ⟨_, _, _, e⟩ <;> rw [e] at h <;> cases h
  · exact ⟨hm, by simp, by simp, .inl (by simp)⟩
  · exact ⟨hm, by simp, by simp, .inr ⟨hi, by simp⟩⟩

/-- The turn of an instance acts on the ring, if at all, by one attempt. -/
theorem step_attempts {s t : State} {u : VmId} (h : step s = .next t) (hu : s.turn = .vm u) :
    ∃ s', s.RingKept s' ∧ s'.cfg = s.cfg ∧ s'.active = u ∧
      (s'.RingKept t ∨ s'.attemptSend = .next t ∨ s'.attemptRecv = .next t) := by
  have hturnOf : s.RingKept (s.turnOf u) := ⟨rfl, rfl, rfl⟩
  have hfetched : s.RingKept (s.fetched u) := by simp [State.RingKept, State.fetched]
  rcases step_cases h with ⟨hv, _⟩ | ⟨hv, _⟩ | ⟨v, hv, ha⟩ <;> cases hu.symm.trans hv
  rcases ha with ⟨_, _, rfl⟩ | ⟨_, _, he⟩ | ⟨_, he⟩ | ⟨_, he⟩
  · exact ⟨s.turnOf u, hturnOf, rfl, rfl, .inl ⟨rfl, rfl, rfl⟩⟩
  · by_cases hs : decode (s.wordAtPc u) = .trapSend
    · rw [hs, exec_trapSend] at he
      exact ⟨_, by simpa [State.RingKept] using hfetched, by simp, by simp, .inr (.inl he)⟩
    by_cases hr : decode (s.wordAtPc u) = .trapRecv
    · rw [hr, exec_trapRecv] at he
      exact ⟨_, by simpa [State.RingKept] using hfetched, by simp, by simp, .inr (.inr he)⟩
    exact ⟨s.fetched u, hfetched, by simp, by simp, .inl (exec_next_local hs hr he).ring⟩
  · exact ⟨s.turnOf u, hturnOf, rfl, rfl, .inr (.inl he)⟩
  · exact ⟨s.turnOf u, hturnOf, rfl, rfl, .inr (.inr he)⟩

/-- What everyone but the consumer can do to the ring. -/
inductive Ring.ProducerMoves (n : Nat) (q : Ring) : Ring → Prop
  | keeps : q.ProducerMoves n q
  | syncHead : q.ProducerMoves n (q.syncHead n)
  | syncTail : q.ProducerMoves n (q.syncTail n)
  | push (hroom : (q.head + 1) % n ≠ q.tailP) (v : Word) : q.ProducerMoves n (q.pushed n v)

/-- What everyone but the producer can do to the ring. -/
inductive Ring.ConsumerMoves (n : Nat) (q : Ring) : Ring → Prop
  | keeps : q.ConsumerMoves n q
  | syncHead : q.ConsumerMoves n (q.syncHead n)
  | syncTail : q.ConsumerMoves n (q.syncTail n)
  | pop (hitem : q.headC ≠ q.tail) : q.ConsumerMoves n (q.popped n)

theorem step_producerMoves {s t : State} {v : VmId} (h : step s = .next t) (hc : s.consumer = some v)
    (hv : s.turn ≠ .vm v) : t.consumer = some v ∧ s.q.ProducerMoves s.cfg.capacity t.q := by
  rcases step_cases h with ⟨_, rfl⟩ | ⟨_, rfl⟩ | ⟨u, hu, _⟩
  · exact ⟨hc, .syncHead⟩
  · exact ⟨hc, .syncTail⟩
  have hne : some v ≠ some u := fun e => hv (Option.some.inj e ▸ hu)
  obtain ⟨s', ⟨hq, _, hcons⟩, hcfg, hact, ⟨hq', _, hcons'⟩ | hsend | hrecv⟩ := step_attempts h hu
  · rw [hcons', hq', hcons, hq]
    exact ⟨hc, .keeps⟩
  · have hrole : s'.consumer ≠ some s'.active := by rwa [hact, hcons, hc]
    obtain ⟨_, _, hcons', hring⟩ := State.attemptSend_ring hsend
    rw [State.bindPush_q, if_neg hrole, State.seenTail, if_neg hrole, hq, hcfg] at hring
    refine ⟨by rw [hcons', hcons, hc], ?_⟩
    rcases hring with e | ⟨hroom, e⟩ <;> rw [e]
    · exact .keeps
    · exact .push hroom _
  · obtain ⟨hmay, _⟩ := State.attemptRecv_ring hrecv
    rw [State.mayPop, hcons, hact, hc] at hmay
    simp [hne] at hmay

theorem step_consumerMoves {s t : State} {v : VmId} (h : step s = .next t) (hp : s.producer = some v)
    (hv : s.turn ≠ .vm v) : t.producer = some v ∧ s.q.ConsumerMoves s.cfg.capacity t.q := by
  rcases step_cases h with ⟨_, rfl⟩ | ⟨_, rfl⟩ | ⟨u, hu, _⟩
  · exact ⟨hp, .syncHead⟩
  · exact ⟨hp, .syncTail⟩
  have hne : some v ≠ some u := fun e => hv (Option.some.inj e ▸ hu)
  obtain ⟨s', ⟨hq, hprod, _⟩, hcfg, hact, ⟨hq', hprod', _⟩ | hsend | hrecv⟩ := step_attempts h hu
  · rw [hprod', hq', hprod, hq]
    exact ⟨hp, .keeps⟩
  · obtain ⟨hmay, _⟩ := State.attemptSend_ring hsend
    rw [State.mayPush, hprod, hact, hp] at hmay
    simp [hne] at hmay
  · have hrole : s'.producer ≠ some s'.active := by rwa [hact, hprod, hp]
    obtain ⟨_, _, hprod', hring⟩ := State.attemptRecv_ring hrecv
    rw [State.bindPop_q, if_neg hrole, State.seenHead, if_neg hrole, hq, hcfg] at hring
    refine ⟨by rw [hprod', hprod, hp], ?_⟩
    rcases hring with e | ⟨hitem, e⟩ <;> rw [e]
    · exact .keeps
    · exact .pop hitem

namespace Ring.Inv

variable {n : Nat} {q q' : Ring}

/-- A turn of `SyncHead` leaves the consumer with an item in sight where one is outstanding. -/
theorem syncHead_headC_ne (h : q.Inv n) (hpos : 0 < q.count n) : (q.syncHead n).headC ≠ q.tail := by
  have hne := h.count_pos_iff.mp hpos
  have h1 := h.tail_le_headC
  have h2 := h.headC_le_head
  have a := h.head_lt
  have b := h.tail_lt
  have c := h.tailP_lt
  have d := h.headC_lt
  simp only [Ring.dist, add_sub_mod a c, add_sub_mod b c, add_sub_mod d c] at h1 h2
  rw [Ring.syncHead_headC, chase, succ_mod d]
  split_ifs at * <;> omega

/-- A turn of `SyncTail` leaves the producer with room in sight where there is room. -/
theorem syncTail_tailP_ne (h : q.Inv n) (hroom : q.count n < n - 1) : (q.head + 1) % n ≠ (q.syncTail n).tailP := by
  have hne := h.count_room_iff.mp hroom
  have h1 := h.tail_le_headC
  have h2 := h.headC_le_head
  have a := h.head_lt
  have b := h.tail_lt
  have c := h.tailP_lt
  have d := h.headC_lt
  simp only [Ring.dist, add_sub_mod a c, add_sub_mod b c, add_sub_mod d c] at h1 h2
  rw [Ring.syncTail_tailP, chase, succ_mod c]
  rw [succ_mod a] at *
  split_ifs at * <;> omega

theorem of_producerMoves (h : q.Inv n) (hm : q.ProducerMoves n q') : q'.Inv n := by
  cases hm with
  | keeps => exact h
  | syncHead => exact h.syncHead
  | syncTail => exact h.syncTail
  | push hroom v => exact h.push hroom v

theorem of_consumerMoves (h : q.Inv n) (hm : q.ConsumerMoves n q') : q'.Inv n := by
  cases hm with
  | keeps => exact h
  | syncHead => exact h.syncHead
  | syncTail => exact h.syncTail
  | pop hitem => exact h.pop hitem

theorem count_le_of_producerMoves (h : q.Inv n) (hm : q.ProducerMoves n q') : q.count n ≤ q'.count n := by
  cases hm with
  | keeps => exact le_rfl
  | syncHead => exact (Ring.count_congr (by simp) (by simp)).ge
  | syncTail => exact (Ring.count_congr (by simp) (by simp)).ge
  | push hroom v => exact h.pushed_count hroom v ▸ Nat.le_succ _

theorem count_le_of_consumerMoves (h : q.Inv n) (hm : q.ConsumerMoves n q') : q'.count n ≤ q.count n := by
  cases hm with
  | keeps => exact le_rfl
  | syncHead => exact (Ring.count_congr (by simp) (by simp)).le
  | syncTail => exact (Ring.count_congr (by simp) (by simp)).le
  | pop hitem => exact h.popped_count hitem ▸ Nat.le_succ _

/-- An item in sight stays in sight until the consumer moves. -/
theorem headC_ne_of_producerMoves (h : q.Inv n) (hm : q.ProducerMoves n q') (hitem : q.headC ≠ q.tail) :
    q'.headC ≠ q'.tail := by
  cases hm with
  | keeps => exact hitem
  | syncHead => simpa using h.syncHead_headC_ne (h.count_pos hitem)
  | syncTail => simpa using hitem
  | push _ v => exact hitem

/-- Room in sight stays in sight until the producer moves. -/
theorem tailP_ne_of_consumerMoves (h : q.Inv n) (hm : q.ConsumerMoves n q') (hroom : (q.head + 1) % n ≠ q.tailP) :
    (q'.head + 1) % n ≠ q'.tailP := by
  cases hm with
  | keeps => exact hroom
  | syncHead => simpa using hroom
  | syncTail => simpa using h.syncTail_tailP_ne (Nat.lt_sub_of_add_lt (h.count_room hroom))
  | pop _ => exact hroom

end Ring.Inv

/-! ### Weakly fair runs (R76, R282, D20) -/

@[simp] theorem State.withTurn_turn (s : State) (a : Turn) : (s.withTurn a).turn = a := rfl
@[simp] theorem State.withTurn_cfg (s : State) (a : Turn) : (s.withTurn a).cfg = s.cfg := rfl
@[simp] theorem State.withTurn_q (s : State) (a : Turn) : (s.withTurn a).q = s.q := rfl
@[simp] theorem State.withTurn_producer (s : State) (a : Turn) : (s.withTurn a).producer = s.producer := rfl
@[simp] theorem State.withTurn_consumer (s : State) (a : Turn) : (s.withTurn a).consumer = s.consumer := rfl
@[simp] theorem State.withTurn_vm (s : State) (a : Turn) (v : VmId) : (s.withTurn a).vm v = s.vm v := by
  cases v <;> rfl

/-- Weak fairness at work: while `P` holds the agent `a` is enabled and no step leaves `P` but to `G`; `a`'s own step
leads to `G`. Then `G` is reached. -/
theorem WeaklyFair.leads {σ : Nat → Turn} {r : Nat → State} (hfair : WeaklyFair σ r) (hrun : IsRun σ r)
    {P G : State → Prop} {a : Turn} (hturn : ∀ s b, P s → P (s.withTurn b))
    (hstep : ∀ s t, P s → step s = .next t → P t ∨ G t)
    (hown : ∀ s t, P s → s.turn = a → step s = .next t → G t) (hen : ∀ s, P s → s.enabled a = true)
    {k : Nat} (hk : P (r k)) : ∃ m, k < m ∧ G (r m) := by
  by_contra hnot
  have hP : ∀ m, k ≤ m → P (r m) := by
    intro m hm
    induction m, hm using Nat.le_induction with
    | base => exact hk
    | succ m hm ih =>
      exact (hstep _ _ (hturn _ _ ih) (hrun m)).resolve_right fun hG => hnot ⟨m + 1, by omega, hG⟩
  obtain ⟨m, hm, hσ | hdis⟩ := hfair a k
  · exact hnot ⟨m + 1, by omega, hown _ _ (hturn _ _ (hP m hm)) hσ (hrun m)⟩
  · rw [hen _ (hP m hm)] at hdis
    cases hdis

/-- A wait that its Sync agent and its own turns bring to an end: while it lasts what is in sight stays in sight, a
turn of the Sync agent brings it into sight, and then the waiting agent's own turn completes the wait. -/
structure CompletesBy (waits sees done : State → Prop) (sync own : Turn) : Prop where
  waits_withTurn : ∀ s a, waits s → waits (s.withTurn a)
  sees_withTurn : ∀ s a, sees (s.withTurn a) ↔ sees s
  keeps : ∀ s t, waits s → step s = .next t → (waits t ∧ (sees s → sees t)) ∨ done t
  sync_sees : ∀ s t, waits s → s.turn = sync → step s = .next t → sees t
  own_done : ∀ s t, waits s → sees s → s.turn = own → step s = .next t → done t
  sync_enabled : ∀ s, waits s → ¬ sees s → s.enabled sync = true
  own_enabled : ∀ s, waits s → s.enabled own = true

theorem CompletesBy.reached {waits sees done : State → Prop} {sync own : Turn}
    (h : CompletesBy waits sees done sync own) {σ : Nat → Turn} {r : Nat → State} (hrun : IsRun σ r)
    (hfair : WeaklyFair σ r) {k : Nat} (hk : waits (r k)) : ∃ m, k < m ∧ done (r m) := by
  have hseen {j : Nat} (hj : waits (r j) ∧ sees (r j)) : ∃ m, j < m ∧ done (r m) := by
    refine hfair.leads hrun (P := fun s => waits s ∧ sees s) (a := own) ?_ ?_ ?_ ?_ hj
    · exact fun s a hs => ⟨h.waits_withTurn s a hs.1, (h.sees_withTurn s a).mpr hs.2⟩
    · exact fun s t hs e => (h.keeps s t hs.1 e).imp_left fun ht => ⟨ht.1, ht.2 hs.2⟩
    · exact fun s t hs => h.own_done s t hs.1 hs.2
    · exact fun s hs => h.own_enabled s hs.1
  have hsync : ∃ m, k < m ∧ (done (r m) ∨ (waits (r m) ∧ sees (r m))) := by
    by_cases hs : sees (r k)
    · obtain ⟨m, hm, hd⟩ := hseen ⟨hk, hs⟩
      exact ⟨m, hm, .inl hd⟩
    refine hfair.leads hrun (P := fun s => waits s ∧ ¬ sees s)
      (G := fun s => done s ∨ (waits s ∧ sees s)) (a := sync) ?_ ?_ ?_ ?_ ⟨hk, hs⟩
    · exact fun s a hs => ⟨h.waits_withTurn s a hs.1, mt (h.sees_withTurn s a).mp hs.2⟩
    · intro s t hs e
      by_cases ht : sees t
      · exact .inr ((h.keeps s t hs.1 e).symm.imp_right fun hw => ⟨hw.1, ht⟩)
      · exact (h.keeps s t hs.1 e).imp (fun hw => ⟨hw.1, ht⟩) .inl
    · exact fun s t hs hv e => (h.keeps s t hs.1 e).symm.imp_right fun hw => ⟨hw.1, h.sync_sees s t hs.1 hv e⟩
    · exact fun s hs => h.sync_enabled s hs.1 hs.2
  obtain ⟨m, hm, hd | hw⟩ := hsync
  · exact ⟨m, hm, hd⟩
  · obtain ⟨m', hm', hd⟩ := hseen hw
    exact ⟨m', hm.trans hm', hd⟩

/-! ### A pending RECV (R207) -/

/-- Instance `v` is inside its RECV number `received + 1`, and an item is outstanding. -/
structure State.AwaitsItem (v : VmId) (received : Nat) (s : State) : Prop where
  ring : s.q.Inv s.cfg.capacity
  consumer : s.consumer = some v
  pend : (s.vm v).pend = .recv
  received : (s.vm v).messagesReceived = received
  item : 0 < s.q.count s.cfg.capacity

/-- Instance `v` has completed that RECV. -/
def State.ReceivedItem (v : VmId) (received : Nat) (s : State) : Prop :=
  (s.vm v).pend = .none ∧ (s.vm v).messagesReceived = received + 1

/-- The consumer's view shows an item. -/
def State.SeesItem (s : State) : Prop := s.q.headC ≠ s.q.tail

namespace State.AwaitsItem

variable {s t : State} {v : VmId} {received : Nat}

/-- Any turn but the consumer's own leaves the RECV pending, an item outstanding, and in sight what was in sight. -/
theorem step_other (h : s.AwaitsItem v received) (hv : s.turn ≠ .vm v) (e : step s = .next t) :
    t.AwaitsItem v received ∧ (s.SeesItem → t.SeesItem) := by
  obtain ⟨hcons, hmoves⟩ := step_producerMoves e h.consumer hv
  have hcfg := stepKeepsConfig s t e
  have hvm := step_vm_of_turn_ne e hv
  exact ⟨⟨hcfg ▸ h.ring.of_producerMoves hmoves, hcons, hvm ▸ h.pend, hvm ▸ h.received,
    hcfg ▸ h.item.trans_le (h.ring.count_le_of_producerMoves hmoves)⟩, h.ring.headC_ne_of_producerMoves hmoves⟩

/-- The consumer's own turn completes the RECV, or its view shows no item and the ring stays as it is. -/
theorem step_own (h : s.AwaitsItem v received) (hv : s.turn = .vm v) (e : step s = .next t) :
    t.ReceivedItem v received ∨ (t.AwaitsItem v received ∧ ¬ s.SeesItem) := by
  rw [step_recv hv h.pend] at e
  have hvm := (State.attemptRecv_rest e).vm_eq (s.turnOf_active v)
  rcases (s.turnOf v).attemptRecv_cases with ⟨_, e'⟩ | ⟨_, hempty, e'⟩ | ⟨_, _, w, _, e'⟩ | ⟨_, _, _, e'⟩ <;>
    rw [e'] at e <;> cases e
  · right
    have hrole : s.producer ≠ some v := by
      intro hp
      exact h.ring.count_pos_iff.mp h.item (by simpa [State.seenHead, hp] using hempty)
    have hq : (s.turnOf v).bindPop.q = s.q := by simp [State.bindPop_q, hrole]
    refine ⟨⟨?_, by simp, ?_, ?_, ?_⟩, by simpa [State.seenHead, hrole, State.SeesItem] using hempty⟩
    · simpa [hq] using h.ring
    · simpa [hvm] using h.pend
    · simpa [hvm] using h.received
    · simpa using h.item
  · left
    rw [State.ReceivedItem, hvm]
    simpa [Vm.recvDone] using h.received

/-- Whatever the view, the RECV completes or waits on; with an item in sight its own turn completes it. -/
theorem completesBy (v : VmId) (received : Nat) :
    CompletesBy (State.AwaitsItem v received) State.SeesItem (State.ReceivedItem v received) .syncHead (.vm v) where
  waits_withTurn s a h := ⟨h.ring, h.consumer, by simpa using h.pend, by simpa using h.received, h.item⟩
  sees_withTurn s a := Iff.rfl
  keeps s t h e := by
    by_cases hv : s.turn = .vm v
    · exact (h.step_own hv e).symm.imp_left fun hw => ⟨hw.1, fun hs => absurd hs hw.2⟩
    · exact .inl (h.step_other hv e)
  sync_sees s t h hv e := by
    rw [step_syncHead hv] at e
    cases e
    simpa [State.SeesItem] using h.ring.syncHead_headC_ne h.item
  own_done s t h hs hv e := (h.step_own hv e).resolve_right fun hw => hw.2 hs
  sync_enabled s h hs := by
    have hblind : s.q.headC = s.q.tail := Decidable.not_not.mp hs
    simpa [State.enabled, hblind] using (h.ring.count_pos_iff.mp h.item).symm
  own_enabled s h := by simp [State.enabled, Vm.terminated, h.pend]

end State.AwaitsItem

/-- Settles O53: the pending instance is the consumer, `SyncHead` shows it the item, and its next turn takes it. -/
theorem fairRunCompletesReceive : Obligations.FairRunCompletesReceive := fun _ r k v hrun hfair hinv hpend hitem =>
  (State.AwaitsItem.completesBy v ((r k).vm v).messagesReceived).reached hrun hfair
    ⟨hinv.ring, hinv.receiver v (.inr hpend), hpend, rfl, hitem⟩

/-! ### A pending SEND (R206) -/

/-- Instance `v` is inside its SEND number `sent + 1`, and there is room. -/
structure State.AwaitsRoom (v : VmId) (sent : Nat) (s : State) : Prop where
  ring : s.q.Inv s.cfg.capacity
  producer : s.producer = some v
  pend : (s.vm v).pend = .send
  sent : (s.vm v).messagesSent = sent
  room : s.q.count s.cfg.capacity < s.cfg.capacity - 1

/-- Instance `v` has completed that SEND. -/
def State.SentItem (v : VmId) (sent : Nat) (s : State) : Prop :=
  (s.vm v).pend = .none ∧ (s.vm v).messagesSent = sent + 1

/-- The producer's view shows room. -/
def State.SeesRoom (s : State) : Prop := (s.q.head + 1) % s.cfg.capacity ≠ s.q.tailP

namespace State.AwaitsRoom

variable {s t : State} {v : VmId} {sent : Nat}

/-- Any turn but the producer's own leaves the SEND pending, room in the ring, and in sight what was in sight. -/
theorem step_other (h : s.AwaitsRoom v sent) (hv : s.turn ≠ .vm v) (e : step s = .next t) :
    t.AwaitsRoom v sent ∧ (s.SeesRoom → t.SeesRoom) := by
  obtain ⟨hprod, hmoves⟩ := step_consumerMoves e h.producer hv
  have hcfg := stepKeepsConfig s t e
  have hvm := step_vm_of_turn_ne e hv
  exact ⟨⟨hcfg ▸ h.ring.of_consumerMoves hmoves, hprod, hvm ▸ h.pend, hvm ▸ h.sent,
    hcfg ▸ (h.ring.count_le_of_consumerMoves hmoves).trans_lt h.room⟩,
    fun hs => by rw [State.SeesRoom, hcfg]; exact h.ring.tailP_ne_of_consumerMoves hmoves hs⟩

/-- The producer's own turn completes the SEND, or its view shows no room and the ring stays as it is. -/
theorem step_own (h : s.AwaitsRoom v sent) (hv : s.turn = .vm v) (e : step s = .next t) :
    t.SentItem v sent ∨ (t.AwaitsRoom v sent ∧ ¬ s.SeesRoom) := by
  rw [step_send hv h.pend] at e
  have hvm := (State.attemptSend_rest e).vm_eq (s.turnOf_active v)
  rcases (s.turnOf v).attemptSend_cases with ⟨_, e'⟩ | ⟨_, hfull, e'⟩ | ⟨_, _, e'⟩ <;> rw [e'] at e <;> cases e
  · right
    have hrole : s.consumer ≠ some v := by
      intro hc
      exact h.ring.count_room_iff.mp h.room (by simpa [State.seenTail, hc] using hfull)
    have hq : (s.turnOf v).bindPush.q = s.q := by simp [State.bindPush_q, hrole]
    refine ⟨⟨?_, by simp, ?_, ?_, ?_⟩, by simpa [State.seenTail, hrole, State.SeesRoom] using hfull⟩
    · simpa [hq] using h.ring
    · simpa [hvm] using h.pend
    · simpa [hvm] using h.sent
    · simpa using h.room
  · left
    rw [State.SentItem, hvm]
    simpa [Vm.sendDone] using h.sent

/-- Whatever the view, the SEND completes or waits on; with room in sight its own turn completes it. -/
theorem completesBy (v : VmId) (sent : Nat) :
    CompletesBy (State.AwaitsRoom v sent) State.SeesRoom (State.SentItem v sent) .syncTail (.vm v) where
  waits_withTurn s a h := ⟨h.ring, h.producer, by simpa using h.pend, by simpa using h.sent, h.room⟩
  sees_withTurn s a := Iff.rfl
  keeps s t h e := by
    by_cases hv : s.turn = .vm v
    · exact (h.step_own hv e).symm.imp_left fun hw => ⟨hw.1, fun hs => absurd hs hw.2⟩
    · exact .inl (h.step_other hv e)
  sync_sees s t h hv e := by
    rw [step_syncTail hv] at e
    cases e
    simpa [State.SeesRoom] using h.ring.syncTail_tailP_ne h.room
  own_done s t h hs hv e := (h.step_own hv e).resolve_right fun hw => hw.2 hs
  sync_enabled s h hs := by
    have hblind : (s.q.head + 1) % s.cfg.capacity = s.q.tailP := Decidable.not_not.mp hs
    simpa [State.enabled, ← hblind] using h.ring.count_room_iff.mp h.room
  own_enabled s h := by simp [State.enabled, Vm.terminated, h.pend]

end State.AwaitsRoom

/-- Settles O54: the pending instance is the producer, `SyncTail` shows it the room, and its next turn takes it. -/
theorem fairRunCompletesSend : Obligations.FairRunCompletesSend := fun _ r k v hrun hfair hinv hpend hroom =>
  (State.AwaitsRoom.completesBy v ((r k).vm v).messagesSent).reached hrun hfair
    ⟨hinv.ring, hinv.sender v (.inr hpend), hpend, rfl, hroom⟩

end Sys2Proof.Machine
end

section
/-! Proofs for 30_encoding.md: the formats of R93 as data, with which decoder and encoder agree (R99), the undecoded
bits (R97), the opcode table (R104), and the word of mask 000 (R103). -/

namespace Sys2Proof.Machine
open Sys2Proof.Laws

/-! ### Formats -/

/-- Bits `hi:lo` of a word and the number they hold (R11). -/
structure Bits where
  hi : Nat
  lo : Nat
  value : Nat

def Bits.Holds (b : Bits) (w : Word) : Prop := wordBits w b.hi b.lo = b.value

/-- The decoded bits of an instruction's word beside its opcode: its operands, the mode bit, the vector (R93). -/
def operandBits : Instr → List Bits
  | .br mask off9 => [⟨11, 9, mask.toNat⟩, ⟨8, 0, off9.toNat⟩]
  | .addReg dr sr1 sr2 | .andReg dr sr1 sr2 => [⟨11, 9, dr⟩, ⟨8, 6, sr1⟩, ⟨5, 5, 0⟩, ⟨2, 0, sr2⟩]
  | .addImm dr sr1 imm5 | .andImm dr sr1 imm5 => [⟨11, 9, dr⟩, ⟨8, 6, sr1⟩, ⟨5, 5, 1⟩, ⟨4, 0, imm5.toNat⟩]
  | .not dr sr => [⟨11, 9, dr⟩, ⟨8, 6, sr⟩]
  | .ld r off9 | .st r off9 => [⟨11, 9, r⟩, ⟨8, 0, off9.toNat⟩]
  | .jsr off11 => [⟨10, 0, off11.toNat⟩]
  | .jmp baseR => [⟨8, 6, baseR⟩]
  | .trapOut => [⟨7, 0, 0x21⟩]
  | .trapHalt => [⟨7, 0, 0x25⟩]
  | .trapSend => [⟨7, 0, 0x30⟩]
  | .trapRecv => [⟨7, 0, 0x31⟩]
  | .trapOther vect8 => [⟨7, 0, vect8.toNat⟩]
  | .unrec6 | .unrec7 | .unrec8 | .unrecA | .unrecB | .unrecD | .unrecE => []

/-- All decoded bits of an instruction's word: the opcode and the operands (R92, R93). -/
def format (i : Instr) : List Bits := ⟨15, 12, OpcodeField.number i⟩ :: operandBits i

/-- The decoded bits of `w` are those of the instruction. -/
def Encodes (w : Word) (i : Instr) : Prop := ∀ b ∈ format i, b.Holds w

theorem encodes_iff {w : Word} {i : Instr} :
    Encodes w i ↔ wordBits w 15 12 = OpcodeField.number i ∧ ∀ b ∈ operandBits i, b.Holds w := by
  simp [Encodes, format, Bits.Holds]

theorem wordBits_lt (w : Word) (hi lo : Nat) : wordBits w hi lo < 2 ^ (hi - lo + 1) :=
  Nat.mod_lt _ (Nat.two_pow_pos _)

/-! ### The encoder -/

theorem encodes_encode (i : Instr) : Encodes (encode i) i := by
  refine encodes_iff.2 ⟨opcodeField_every i, ?_⟩
  cases i with
  | trapOut | trapHalt | trapSend | trapRecv => simp only [operandBits, List.forall_mem_singleton, Bits.Holds]; decide
  | unrec6 | unrec7 | unrec8 | unrecA | unrecB | unrecD | unrecE => exact List.forall_mem_nil _
  | _ =>
    simp only [operandBits, List.forall_mem_cons, List.not_mem_nil, false_imp_iff, implies_true, and_true, Bits.Holds,
      wordBits, encode_br_toNat, encode_addReg_toNat, encode_addImm_toNat, encode_andReg_toNat, encode_andImm_toNat,
      encode_not_toNat, encode_ld_toNat, encode_st_toNat, encode_jsr_toNat, encode_jmp_toNat, encode_trapOther_toNat]
    omega

/-! ### The decoder -/

theorem extract_toNat (w : Word) (hi lo : Nat) : (w.extractLsb' lo (hi - lo + 1)).toNat = wordBits w hi lo := by
  rw [BitVec.extractLsb'_toNat, Nat.shiftRight_eq_div_pow, wordBits]

theorem regAt_val {hi lo : Nat} (w : Word) (h : hi - lo = 2) : (regAt w hi lo : Nat) = wordBits w hi lo :=
  Nat.mod_eq_of_lt (by simpa [h] using wordBits_lt w hi lo)

@[simp] theorem fieldMask_toNat (w : Word) : (fieldMask w).toNat = wordBits w 11 9 := extract_toNat w 11 9
@[simp] theorem fieldImm5_toNat (w : Word) : (fieldImm5 w).toNat = wordBits w 4 0 := extract_toNat w 4 0
@[simp] theorem fieldOff9_toNat (w : Word) : (fieldOff9 w).toNat = wordBits w 8 0 := extract_toNat w 8 0
@[simp] theorem fieldOff11_toNat (w : Word) : (fieldOff11 w).toNat = wordBits w 10 0 := extract_toNat w 10 0
@[simp] theorem fieldVect8_toNat (w : Word) : (fieldVect8 w).toNat = wordBits w 7 0 := extract_toNat w 7 0
@[simp] theorem fieldDR_val (w : Word) : (fieldDR w : Nat) = wordBits w 11 9 := by rw [fieldDR_eq, regAt_val w rfl]
@[simp] theorem fieldSR1_val (w : Word) : (fieldSR1 w : Nat) = wordBits w 8 6 := by rw [fieldSR1_eq, regAt_val w rfl]
@[simp] theorem fieldSR2_val (w : Word) : (fieldSR2 w : Nat) = wordBits w 2 0 := by rw [fieldSR2_eq, regAt_val w rfl]

theorem decode_of_opcode {w : Word} {n : Nat} (h : wordBits w 15 12 = n) :
    decode w = decodeOp (BitVec.ofNat 4 n) w := by
  rw [decode, opcodeOf_eq, h]

theorem decodeTrap_eq_trapOther {v : BitVec 8} (h : (Instr.trapOther v).wf = true) : decodeTrap v = .trapOther v := by
  simp only [Instr.wf, recognisedVectors, List.contains_cons, List.contains_nil, Bool.not_eq_true',
    Bool.or_eq_false_iff, beq_eq_false_iff_ne] at h
  simp [decodeTrap, h]

/-- A word has one reading: the instruction whose decoded bits it has is what it decodes to (R99). -/
theorem decode_of_encodes {w : Word} {i : Instr} (hwf : i.wf = true) (h : Encodes w i) : decode w = i := by
  obtain ⟨hop, h⟩ := encodes_iff.1 h
  rw [decode_of_opcode hop]
  cases i with
  | trapOther v =>
    have hv : fieldVect8 w = v := BitVec.eq_of_toNat_eq (by simpa [operandBits, Bits.Holds] using h)
    exact (congrArg decodeTrap hv).trans (decodeTrap_eq_trapOther hwf)
  | _ =>
    simp only [operandBits, List.forall_mem_cons, Bits.Holds] at h
    simp [OpcodeField.number, decodeOp, decodeTrap, fieldMode_eq, ← BitVec.toNat_inj, Fin.ext_iff, h]

theorem decodeTrap_wf (v : BitVec 8) : (decodeTrap v).wf = true := by
  rw [decodeTrap]
  split_ifs <;> simp_all [Instr.wf, recognisedVectors]

theorem encodes_decodeTrap {w : Word} (h : wordBits w 15 12 = 15) : Encodes w (decodeTrap (fieldVect8 w)) := by
  rw [decodeTrap, encodes_iff]
  split_ifs <;> simp_all [operandBits, Bits.Holds, OpcodeField.number, ← BitVec.toNat_inj]

/-- Opcode by opcode of R92: the decoder's answer is well-formed and has the decoded bits of the word. -/
theorem decode_spec (w : Word) : (decode w).wf = true ∧ Encodes w (decode w) := by
  have hmode : wordBits w 5 5 = 0 ∨ wordBits w 5 5 = 1 :=
    Nat.le_one_iff_eq_zero_or_eq_one.1 (Nat.le_of_lt_succ (wordBits_lt w 5 5))
  obtain ⟨n, hop⟩ : ∃ n, wordBits w 15 12 = n := ⟨_, rfl⟩
  have hn : n < 16 := hop ▸ wordBits_lt w 15 12
  rw [decode_of_opcode hop]
  obtain rfl | hlt : n = 15 ∨ n < 15 := by omega
  · exact ⟨decodeTrap_wf _, encodes_decodeTrap hop⟩
  · rcases hmode with hm | hm <;> interval_cases n <;>
      simp [decodeOp, Instr.wf, encodes_iff, fieldMode_eq, operandBits, Bits.Holds, OpcodeField.number, hop, hm]

/-- The decoder reads the formats of R93: each word is decoded to the one instruction whose decoded bits it has. -/
theorem decode_eq_iff {w : Word} {i : Instr} (hwf : i.wf = true) : decode w = i ↔ Encodes w i :=
  ⟨fun h => h ▸ (decode_spec w).2, decode_of_encodes hwf⟩

/-- Settles O1: the encoder writes the format that the decoder reads. -/
theorem decodeEncodeAgree : Obligations.DecodeEncodeAgree := fun i hwf => (decode_eq_iff hwf).2 (encodes_encode i)

/-! ### Totality (R99) -/

theorem decodeTableWord_toNat (w : Word) : decodeTableWord 16 w.toNat = some (decode w) := by
  simp [decodeTableWord, w.isLt]

theorem wf_trapOther_iff (v : BitVec 8) : (Instr.trapOther v).wf = true ↔ v.toNat ∉ [0x21, 0x25, 0x30, 0x31] := by
  simp [Instr.wf, recognisedVectors, ← BitVec.toNat_inj]

theorem decode_eq_iff_vector {w : Word} {i : Instr} {n : Nat} (hop : wordBits w 15 12 = OpcodeField.number i)
    (hwf : i.wf = true) (hi : operandBits i = [⟨7, 0, n⟩]) : decode w = i ↔ wordBits w 7 0 = n := by
  simp [decode_eq_iff hwf, encodes_iff, hop, hi, Bits.Holds]

theorem exists_decode_eq_trapOther_iff {w : Word} (hop : wordBits w 15 12 = 15) :
    (∃ v, decode w = .trapOther v) ↔ wordBits w 7 0 ∉ [0x21, 0x25, 0x30, 0x31] := by
  constructor
  · rintro ⟨v, h⟩
    have hwf : (Instr.trapOther v).wf = true := h ▸ (decode_spec w).1
    rw [(decode_eq_iff_vector hop hwf rfl).1 h]
    exact (wf_trapOther_iff v).1 hwf
  · intro h
    rw [← fieldVect8_toNat, ← wf_trapOther_iff] at h
    exact ⟨fieldVect8 w, (decode_eq_iff_vector hop h rfl).2 (fieldVect8_toNat w).symm⟩

theorem decode_eq_iff_opcode {w : Word} {i : Instr} (hi : operandBits i = []) :
    decode w = i ↔ wordBits w 15 12 = OpcodeField.number i := by
  have hwf : i.wf = true := by
    cases i with
    | trapOther _ => cases hi
    | _ => rfl
  simp [decode_eq_iff hwf, encodes_iff, hi]

theorem decode_mem_iff_opcode {w : Word} {l : List Instr} (hl : ∀ i ∈ l, operandBits i = []) :
    decode w ∈ l ↔ wordBits w 15 12 ∈ l.map OpcodeField.number := by
  rw [List.mem_map]
  constructor
  · exact fun h => ⟨_, h, ((decode_eq_iff_opcode (hl _ h)).1 rfl).symm⟩
  · rintro ⟨i, hi, hop⟩
    rwa [(decode_eq_iff_opcode (hl i hi)).2 hop.symm]

/-- Settles O2: a TRAP word has its service's format exactly if it has the vector, and the format of an unrecognised
opcode is the opcode alone. -/
theorem decodingIsTotal : Obligations.DecodingIsTotal := by
  refine ⟨fun w => ⟨(decode_spec w).1, decodeTableWord_toNat w⟩, fun w hop => ?_, fun w => ?_⟩
  · exact ⟨decode_eq_iff_vector hop rfl rfl, decode_eq_iff_vector hop rfl rfl, decode_eq_iff_vector hop rfl rfl,
      decode_eq_iff_vector hop rfl rfl, exists_decode_eq_trapOther_iff hop⟩
  · exact decode_mem_iff_opcode (by simp [operandBits])

/-! ### Masks (R97, R104) -/

/-- The word that has its bits set at `hi:lo` only. -/
def Bits.mask (b : Bits) : Word := BitVec.ofNat 16 ((2 ^ (b.hi - b.lo + 1) - 1) <<< b.lo)

def maskOf : List Bits → Word
  | [] => 0#16
  | b :: bs => b.mask ||| maskOf bs

theorem and_mask_toNat (w : Word) (b : Bits) : (w &&& b.mask).toNat = wordBits w b.hi b.lo <<< b.lo := by
  refine Nat.eq_of_testBit_eq fun i => ?_
  rw [Bits.mask, wordBits, BitVec.testBit_toNat, BitVec.getLsbD_and, BitVec.getLsbD_ofNat, Nat.testBit_shiftLeft,
    Nat.testBit_shiftLeft, Nat.testBit_two_pow_sub_one, Nat.testBit_mod_two_pow, Nat.testBit_div_two_pow]
  by_cases hlo : b.lo ≤ i
  · rw [Nat.sub_add_cancel hlo, BitVec.testBit_toNat]
    by_cases hi : i < 16
    · simp [hlo, hi, Bool.and_comm]
    · simp [hi, BitVec.getLsbD_of_ge w i (Nat.le_of_not_lt hi)]
  · simp [hlo]

theorem and_mask_eq_iff {w w' : Word} {b : Bits} :
    w &&& b.mask = w' &&& b.mask ↔ wordBits w b.hi b.lo = wordBits w' b.hi b.lo := by
  rw [← BitVec.toNat_inj, and_mask_toNat, and_mask_toNat, Nat.shiftLeft_eq, Nat.shiftLeft_eq,
    Nat.mul_left_inj (Nat.two_pow_pos _).ne']

theorem and_or_and_left (w m m' : Word) : w &&& (m ||| m') &&& m = w &&& m := by
  ext i
  cases hm : m[i] <;> simp [hm]

theorem and_or_eq_iff {w w' m m' : Word} :
    w &&& (m ||| m') = w' &&& (m ||| m') ↔ w &&& m = w' &&& m ∧ w &&& m' = w' &&& m' := by
  constructor
  · intro h
    refine ⟨by rw [← and_or_and_left w m m', h, and_or_and_left], ?_⟩
    rw [BitVec.or_comm] at h
    rw [← and_or_and_left w m' m, h, and_or_and_left]
  · rintro ⟨h, h'⟩
    rw [BitVec.and_or_distrib_left, h, h', BitVec.and_or_distrib_left]

theorem and_maskOf_eq_iff {w w' : Word} {bs : List Bits} :
    w &&& maskOf bs = w' &&& maskOf bs ↔ ∀ b ∈ bs, wordBits w b.hi b.lo = wordBits w' b.hi b.lo := by
  induction bs with
  | nil => simp [maskOf]
  | cons b bs ih => rw [maskOf, and_or_eq_iff, and_mask_eq_iff, ih, List.forall_mem_cons]

theorem decodedMask_eq (i : Instr) : decodedMask i = maskOf (format i) := by
  cases i <;> simp [decodedMask, format, operandBits, maskOf, Bits.mask]

theorem Encodes.and_decodedMask_eq_iff {w w' : Word} {i : Instr} (h : Encodes w i) :
    w &&& decodedMask i = w' &&& decodedMask i ↔ Encodes w' i := by
  rw [decodedMask_eq, and_maskOf_eq_iff, Encodes]
  exact forall₂_congr fun b hb => by rw [h b hb, eq_comm, Bits.Holds]

/-- Words with equal decoded bits are the same instruction. -/
theorem decode_eq_of_and_eq {w w' : Word} (h : w &&& decodedMask (decode w) = w' &&& decodedMask (decode w)) :
    decode w' = decode w :=
  decode_of_encodes (decode_spec w).1 ((decode_spec w).2.and_decodedMask_eq_iff.1 h)

/-- Settles O3: two words have equal decoded bits exactly if they have the same format, and the encoder's word has
the format of its instruction. -/
theorem undecodedBitsIgnored : Obligations.UndecodedBitsIgnored := by
  refine ⟨fun w w' => decode_eq_of_and_eq, fun w => (encodes_encode _).and_decodedMask_eq_iff.2 (decode_spec w).2, ?_⟩
  simp only [wordBits, encode_addReg_toNat, encode_andReg_toNat, encode_not_toNat, encode_jsr_toNat,
    encode_jmp_toNat, encode_trapOther_toNat]
  exact ⟨by omega, by omega, by omega, by omega, by decide, by omega⟩

/-! ### The opcode table (R104) -/

/-- The bits that are the same in all words of a row: the opcode, and the mode bit or the vector (R92, R94, R202). -/
def fixedBits : Row → List Bits
  | .br => [⟨15, 12, 0x0⟩]
  | .addReg => [⟨15, 12, 0x1⟩, ⟨5, 5, 0⟩]
  | .addImm => [⟨15, 12, 0x1⟩, ⟨5, 5, 1⟩]
  | .andReg => [⟨15, 12, 0x5⟩, ⟨5, 5, 0⟩]
  | .andImm => [⟨15, 12, 0x5⟩, ⟨5, 5, 1⟩]
  | .not => [⟨15, 12, 0x9⟩]
  | .ld => [⟨15, 12, 0x2⟩]
  | .st => [⟨15, 12, 0x3⟩]
  | .jsr => [⟨15, 12, 0x4⟩]
  | .jmp => [⟨15, 12, 0xC⟩]
  | .trapOut => [⟨15, 12, 0xF⟩, ⟨7, 0, 0x21⟩]
  | .trapHalt => [⟨15, 12, 0xF⟩, ⟨7, 0, 0x25⟩]
  | .trapSend => [⟨15, 12, 0xF⟩, ⟨7, 0, 0x30⟩]
  | .trapRecv => [⟨15, 12, 0xF⟩, ⟨7, 0, 0x31⟩]
  | .trapOther => [⟨15, 12, 0xF⟩]
  | .unrec6 => [⟨15, 12, 0x6⟩]
  | .unrec7 => [⟨15, 12, 0x7⟩]
  | .unrec8 => [⟨15, 12, 0x8⟩]
  | .unrecA => [⟨15, 12, 0xA⟩]
  | .unrecB => [⟨15, 12, 0xB⟩]
  | .unrecD => [⟨15, 12, 0xD⟩]
  | .unrecE => [⟨15, 12, 0xE⟩]

theorem mask_and_pattern_eq : ∀ p ∈ opcodeTable,
    p.mask = maskOf (fixedBits p.row) ∧ p.pattern &&& p.mask = p.pattern ∧
    ∀ b ∈ fixedBits p.row, wordBits p.pattern b.hi b.lo = b.value := by decide

theorem hit_iff_fixedBits {p : RowPattern} (hp : p ∈ opcodeTable) (w : Word) :
    p.hit w = true ↔ ∀ b ∈ fixedBits p.row, b.Holds w := by
  obtain ⟨hmask, hsub, hpattern⟩ := mask_and_pattern_eq p hp
  rw [RowPattern.hit, beq_iff_eq]
  conv_lhs => rw [← hsub, hmask, and_maskOf_eq_iff]
  exact forall₂_congr fun b hb => by rw [hpattern b hb, Bits.Holds]

theorem fixedBits_subset_format (i : Instr) : fixedBits i.row ⊆ format i := by
  cases i <;> simp [fixedBits, Instr.row, format, operandBits, OpcodeField.number]

theorem row_decode_of_fixedBits {w : Word} {r : Row} (hr : r ≠ .trapOther) (h : ∀ b ∈ fixedBits r, b.Holds w) :
    (decode w).row = r := by
  cases r with
  | trapOther => exact absurd rfl hr
  | _ =>
    simp only [fixedBits, List.forall_mem_cons, Bits.Holds] at h
    simp [decode_of_opcode h.1, decodeOp, decodeTrap, fieldMode_eq, ← BitVec.toNat_inj, h, Instr.row]

/-- A word matches the row of its form, and the general TRAP row if it is a TRAP. -/
theorem hit_iff_decode {p : RowPattern} (hp : p ∈ opcodeTable) (w : Word) :
    p.hit w = true ↔ (decode w).row = p.row ∨ (p.row = .trapOther ∧ OpcodeField.number (decode w) = 0xF) := by
  have hw := (decode_spec w).2
  rw [hit_iff_fixedBits hp]
  constructor
  · intro h
    by_cases hr : p.row = .trapOther
    · rw [hr, fixedBits, List.forall_mem_singleton] at h
      exact .inr ⟨hr, (encodes_iff.1 hw).1.symm.trans h⟩
    · exact .inl (row_decode_of_fixedBits hr h)
  · rintro (h | ⟨hr, hop⟩)
    · exact fun b hb => hw b (fixedBits_subset_format _ (h ▸ hb))
    · rw [hr, fixedBits, List.forall_mem_singleton]
      exact (encodes_iff.1 hw).1.trans hop

theorem exists_rowPattern (r : Row) : ∃ p ∈ opcodeTable, p.row = r := by cases r <;> decide

theorem opcodeTable_row_nodup : (opcodeTable.map (·.row)).Nodup := by decide

/-- The rows of the TRAP opcode (R101, R202). -/
def trapRows : List Row := [.trapOut, .trapHalt, .trapSend, .trapRecv, .trapOther]

theorem row_mem_trapRows {i : Instr} (h : OpcodeField.number i = 0xF) : i.row ∈ trapRows := by
  cases i with
  | trapOut | trapHalt | trapSend | trapRecv | trapOther _ => simp [Instr.row, trapRows]
  | _ => simp [OpcodeField.number] at h

theorem trapOther_maskBits_lt : ∀ q ∈ opcodeTable, ∀ p ∈ opcodeTable, q.row = .trapOther → q ≠ p → p.row ∈ trapRows →
    q.maskBits < p.maskBits := by decide

/-- Settles O4: the only row that a word matches beside its own is the general TRAP row. -/
theorem longestMaskRowWins : Obligations.LongestMaskRowWins := by
  refine ⟨rfl, opcodeTable_row_nodup, fun w => ?_, fun p hp w w' h => ?_⟩
  · obtain ⟨p, hp, hrow⟩ := exists_rowPattern (decode w).row
    refine ⟨p, hp, (hit_iff_decode hp w).2 (.inl hrow.symm), hrow.symm, fun q hq hhit hne => ?_⟩
    rcases (hit_iff_decode hq w).1 hhit with hq' | ⟨hq', hop⟩
    · exact absurd (List.inj_on_of_nodup_map opcodeTable_row_nodup hq hp (hq'.symm.trans hrow.symm)) hne
    · exact trapOther_maskBits_lt q hq p hp hq' hne (hrow ▸ row_mem_trapRows hop)
  · rw [Bool.eq_iff_iff, hit_iff_decode hp, hit_iff_decode hp, decode_eq_of_and_eq h]

/-! ### Sample words and the word of mask 000 (R103) -/

/-- Settles O5: the listed words are closed terms, and the decoder runs on them. -/
theorem sampleWordsDecode : Obligations.SampleWordsDecode := by
  unfold Obligations.SampleWordsDecode
  decide

theorem sextNat9_eq_zero_iff (off9 : BitVec 9) : sextNat 9 off9.toNat = 0 ↔ off9 = 0#9 := by
  rw [sextNat, ← BitVec.toNat_inj, BitVec.toNat_ofNat]
  split <;> omega

theorem decode_of_maskZero {w : Word} (h : wordBits w 15 9 = 0) :
    decode w = .br 0#3 (BitVec.ofNat 9 (wordBits w 8 0)) := by
  have hop : wordBits w 15 12 = 0 := by simp only [wordBits] at h ⊢; omega
  have hmask : wordBits w 11 9 = 0 := by simp only [wordBits] at h ⊢; omega
  refine decode_of_encodes rfl (encodes_iff.2 ⟨hop, ?_⟩)
  simp [← fieldOff9_eq, operandBits, Bits.Holds, hmask]

theorem effectOn_br_maskZero (c : Config) (off9 : BitVec 9) (x : Vm) :
    effectOn c (.br 0#3 off9) x = (x.setPc (pcRel9 x.pc off9)).count := rfl

theorem State.localEffect_onlyCounted {i : Instr} {s : State} (hi : i ≠ .trapOut)
    (h : effectOn s.cfg i s.cur = s.cur.count) : s.OnlyCounted (s.localEffect i) := by
  have hout : (s.localEffect i).out = s.out := by simp [State.localEffect, emitted, hi]
  refine ⟨?_, ?_, ?_, ?_, ?_, ?_, s.localEffect_restKept i, s.localEffect_ringKept i, hout⟩ <;>
    simp [h, Vm.RegsKept, Vm.MemKept, Vm.Counted, Vm.RunKept]

/-- Settles O17: a branch of mask 000 is taken whatever `COND` holds, and its target is the pc exactly for offset 0. -/
theorem maskZeroBranches : Obligations.MaskZeroBranches := by
  refine ⟨fun w => decode_of_maskZero, rfl, fun off9 s => ⟨_, exec_local_eq (by simp) (by simp) s, ?_, ?_⟩⟩
  · rw [State.localEffect_cur, effectOn_br_maskZero, Vm.count_pc, Vm.setPc_pc, eq_comm, eq_pcRel9_iff,
      sextNat9_eq_zero_iff]
  · rintro rfl
    refine State.localEffect_onlyCounted (by simp) ?_
    rw [effectOn_br_maskZero, ← (eq_pcRel9_iff s.cur.pc 0#9).2 rfl]
    rfl

end Sys2Proof.Machine
end

section
/-! Proofs for 40_ring_buffer.md: what a step exchanges with the ring (R122, R124), that it keeps the machine's
invariant (R130, R155, R158, R208), that a run delivers every value once and in order (R132), the exactness of full and
empty (R131), the roles (R127, D25), the Sync turns (R126) and the Gray code (R141). -/

namespace Sys2Proof.Machine

/-! ### What a step exchanges with the ring -/

/-- What an instance shows of its use of the ring: its message counters and its spin phase (R36, R37). -/
def Vm.traffic (x : Vm) : Nat × Nat × Pend := (x.messagesSent, x.messagesReceived, x.pend)

theorem Vm.traffic_eq_iff {x y : Vm} :
    y.traffic = x.traffic ↔
      y.messagesSent = x.messagesSent ∧ y.messagesReceived = x.messagesReceived ∧ y.pend = x.pend := by
  simp [Vm.traffic]

/-- `s'` is `s` as instance `v` makes an attempt: its turn is taken, and it is inside the SEND or RECV that `p` names,
which it has fetched in this step (log entry 11) or before. -/
structure State.Begins (s s' : State) (v : VmId) (p : Pend) : Prop where
  ring : s.RingKept s'
  cfg : s'.cfg = s.cfg
  active : s'.active = v
  other : s'.vm v.other = s.vm v.other
  sent : s'.cur.messagesSent = (s.vm v).messagesSent
  received : s'.cur.messagesReceived = (s.vm v).messagesReceived
  pend : s'.cur.pend = p
  reg : s'.cur.reg 0 = (s.vm v).reg 0

/-- A step without an attempt: of the ring it moves at most a view, as its Sync agent does, and it neither sends nor
receives. -/
structure State.Idles (s t : State) : Prop where
  producer : t.producer = s.producer
  consumer : t.consumer = s.consumer
  ring : t.q = s.q ∨ t.q = s.q.syncHead s.cfg.capacity ∨ t.q = s.q.syncTail s.cfg.capacity
  traffic : ∀ v, (t.vm v).traffic = (s.vm v).traffic

theorem State.Idles.of_ringKept {s t : State} (hq : s.RingKept t) (ht : ∀ v, (t.vm v).traffic = (s.vm v).traffic) :
    s.Idles t := by
  obtain ⟨hq, hp, hc⟩ := hq
  exact ⟨hp, hc, .inl hq, ht⟩

theorem State.begins_turnOf {s : State} {v : VmId} {p : Pend} (hp : (s.vm v).pend = p) :
    s.Begins (s.turnOf v) v p :=
  ⟨⟨rfl, rfl, rfl⟩, rfl, rfl, s.turnOf_vm v v.other, by simp, by simp, by simpa using hp, by simp⟩

theorem State.fetched_ringKept (s : State) (v : VmId) : s.RingKept (s.fetched v) := by
  simp [State.RingKept, State.fetched]

theorem Vm.link_reg_zero (b : Bool) (x : Vm) : (x.link b).reg 0 = x.reg 0 :=
  x.link_regsKept b 0 (by cases b <;> decide)

/-- A fetched SEND or RECV is pending as it makes its first attempt (R206, R207). -/
theorem State.begins_fetched (s : State) (v : VmId) (p : Pend) :
    s.Begins ((s.fetched v).updCur fun x => (x.link s.cfg.trapSavesR7).setPend p) v p :=
  ⟨by simpa [State.RingKept] using s.fetched_ringKept v, by simp, by simp, by simp,
    by simp [Vm.fetched], by simp [Vm.fetched], by simp, by simp [Vm.link_reg_zero, Vm.fetched]⟩

theorem State.fetched_traffic (s : State) (u v : VmId) : ((s.fetched u).vm v).traffic = (s.vm v).traffic := by
  rw [State.fetched, State.advancePc_eq, State.updCur_vm]
  split
  · next h =>
    rw [State.turnOf_active] at h
    rw [h, State.turnOf_cur]
    rfl
  · rw [State.turnOf_vm]

/-- An instruction other than SEND and RECV uses no ring (R160). -/
theorem State.Local.idles {s t : State} (h : s.Local t) : s.Idles t := by
  refine .of_ringKept h.ring fun v => ?_
  rcases VmId.eq_or_eq_other v s.active with rfl | rfl
  · obtain ⟨_, hs, hr, _⟩ := h.counted
    rw [h.rest.vm_eq rfl, Vm.traffic_eq_iff]
    exact ⟨hs, hr, h.pend⟩
  · rw [h.rest.other_eq]

/-- Everything a step that goes on can do to the ring and to what the instances show of its use: nothing but a Sync
move, or one attempt of the instance whose turn it is. -/
theorem step_exchanges {s t : State} (h : step s = .next t) :
    s.Idles t ∨ ∃ v s', s.turn = .vm v ∧ ((s.Begins s' v .send ∧ s'.attemptSend = .next t) ∨
      (s.Begins s' v .recv ∧ s'.attemptRecv = .next t)) := by
  rcases step_cases h with ⟨_, rfl⟩ | ⟨_, rfl⟩ | ⟨v, hv, ⟨_, _, rfl⟩ | ⟨_, _, he⟩ | ⟨hp, he⟩ | ⟨hp, he⟩⟩
  · exact .inl ⟨rfl, rfl, .inr (.inl rfl), by simp⟩
  · exact .inl ⟨rfl, rfl, .inr (.inr rfl), by simp⟩
  · exact .inl (.of_ringKept ⟨rfl, rfl, rfl⟩ (by simp))
  · by_cases hs : decode (s.wordAtPc v) = .trapSend
    · rw [hs, exec_trapSend, State.fetched_cfg] at he
      exact .inr ⟨v, _, hv, .inl ⟨s.begins_fetched v .send, he⟩⟩
    by_cases hr : decode (s.wordAtPc v) = .trapRecv
    · rw [hr, exec_trapRecv, State.fetched_cfg] at he
      exact .inr ⟨v, _, hv, .inr ⟨s.begins_fetched v .recv, he⟩⟩
    obtain ⟨hp, hc, hq, ht⟩ := (exec_next_local hs hr he).idles
    left
    refine ⟨by simpa [State.fetched] using hp, by simpa [State.fetched] using hc,
      by simpa [State.fetched] using hq, fun u => (ht u).trans (s.fetched_traffic v u)⟩
  · exact .inr ⟨v, _, hv, .inl ⟨State.begins_turnOf hp, he⟩⟩
  · exact .inr ⟨v, _, hv, .inr ⟨State.begins_turnOf hp, he⟩⟩

/-! ### The outstanding items through one step (R132) -/

theorem State.RestKept.totalSent_add {s t : State} (h : s.RestKept t) (k : Nat)
    (hk : t.cur.messagesSent = s.cur.messagesSent + k) : t.totalSent = s.totalSent + k := by
  rw [State.totalSent_eq t s.active, State.totalSent_eq s s.active, h.vm_eq rfl, h.other_eq, State.vm_active, hk]
  omega

theorem State.RestKept.totalReceived_add {s t : State} (h : s.RestKept t) (k : Nat)
    (hk : t.cur.messagesReceived = s.cur.messagesReceived + k) : t.totalReceived = s.totalReceived + k := by
  rw [State.totalReceived_eq t s.active, State.totalReceived_eq s s.active, h.vm_eq rfl, h.other_eq, State.vm_active,
    hk]
  omega

theorem pushedBy_of_eq {s t : State} (h : t.totalSent = s.totalSent) : pushedBy s t = [] := by simp [pushedBy, h]

theorem pushedBy_of_succ {s t : State} (h : t.totalSent = s.totalSent + 1) :
    pushedBy s t = [(s.vm t.active).reg 0] := if_pos h

theorem poppedBy_of_eq {s t : State} (h : t.totalReceived = s.totalReceived) : poppedBy s t = [] := by
  simp [poppedBy, h]

theorem poppedBy_of_succ {s t : State} (h : t.totalReceived = s.totalReceived + 1) :
    poppedBy s t = [(t.vm t.active).reg 0] := if_pos h

/-- From `s` to `t` every value pushed is counted as sent, every value popped as received, and the outstanding items
follow the queue's order. -/
structure State.Delivers (s t : State) : Prop where
  ring : t.q.Inv s.cfg.capacity
  sent : t.totalSent = s.totalSent + (pushedBy s t).length
  received : t.totalReceived = s.totalReceived + (poppedBy s t).length
  order : s.q.contents s.cfg.capacity ++ pushedBy s t = poppedBy s t ++ t.q.contents s.cfg.capacity

namespace State.Delivers

variable {s s' t : State}

theorem of_keeps (hring : t.q.Inv s.cfg.capacity) (hs : t.totalSent = s.totalSent)
    (hr : t.totalReceived = s.totalReceived) (hc : t.q.contents s.cfg.capacity = s.q.contents s.cfg.capacity) :
    s.Delivers t := by
  constructor <;> simp [pushedBy_of_eq hs, poppedBy_of_eq hr, hring, hs, hr, hc]

theorem of_push (hring : t.q.Inv s.cfg.capacity) (hs : t.totalSent = s.totalSent + 1)
    (hr : t.totalReceived = s.totalReceived)
    (hc : t.q.contents s.cfg.capacity = s.q.contents s.cfg.capacity ++ [(s.vm t.active).reg 0]) : s.Delivers t := by
  constructor <;> simp [pushedBy_of_succ hs, poppedBy_of_eq hr, hring, hs, hr, hc]

theorem of_pop (hring : t.q.Inv s.cfg.capacity) (hs : t.totalSent = s.totalSent)
    (hr : t.totalReceived = s.totalReceived + 1)
    (hc : s.q.contents s.cfg.capacity = (t.vm t.active).reg 0 :: t.q.contents s.cfg.capacity) : s.Delivers t := by
  constructor <;> simp [pushedBy_of_eq hs, poppedBy_of_succ hr, hring, hs, hr, hc]

/-- What leads up to the attempt exchanges nothing. -/
theorem of_begins {v : VmId} {p : Pend} (hb : s.Begins s' v p) (ht : t.active = v) (h : s'.Delivers t) :
    s.Delivers t := by
  obtain ⟨⟨hq, _, _⟩, hcfg, hact, hother, hsent, hreceived, _, hreg⟩ := hb
  have hcur : s'.vm v = s'.cur := hact ▸ s'.vm_active
  have hS : s'.totalSent = s.totalSent := by
    rw [State.totalSent_eq s' v, State.totalSent_eq s v, hother, hcur, hsent]
  have hR : s'.totalReceived = s.totalReceived := by
    rw [State.totalReceived_eq s' v, State.totalReceived_eq s v, hother, hcur, hreceived]
  have hpush : pushedBy s' t = pushedBy s t := by rw [pushedBy, pushedBy, hS, ht, hcur, hreg]
  have hpop : poppedBy s' t = poppedBy s t := by rw [poppedBy, poppedBy, hR]
  refine ⟨hcfg ▸ h.ring, ?_, ?_, ?_⟩
  · rw [← hpush, ← hS, h.sent]
  · rw [← hpop, ← hR, h.received]
  · rw [← hpush, ← hpop, ← hq, ← hcfg, h.order]

end State.Delivers

theorem State.Idles.delivers {s t : State} (h : s.Idles t) (hinv : s.q.Inv s.cfg.capacity) : s.Delivers t := by
  have hvm (v : VmId) := Vm.traffic_eq_iff.mp (h.traffic v)
  obtain ⟨hsP, hrP, _⟩ := hvm .P
  obtain ⟨hsC, hrC, _⟩ := hvm .C
  have hs : t.totalSent = s.totalSent := congrArg₂ (· + ·) hsP hsC
  have hr : t.totalReceived = s.totalReceived := congrArg₂ (· + ·) hrP hrC
  rcases h.ring with hq | hq | hq
  · exact .of_keeps (hq ▸ hinv) hs hr (by rw [hq])
  · exact .of_keeps (hq ▸ hinv.syncHead) hs hr (by rw [hq]; exact Ring.contents_congr (by simp) (by simp) (by simp))
  · exact .of_keeps (hq ▸ hinv.syncTail) hs hr (by rw [hq]; exact Ring.contents_congr (by simp) (by simp) (by simp))

@[simp] theorem State.bindPush_contents (s : State) (n : Nat) : s.bindPush.q.contents n = s.q.contents n :=
  Ring.contents_congr (by simp) (by simp) (by simp)

@[simp] theorem State.bindPop_contents (s : State) (n : Nat) : s.bindPop.q.contents n = s.q.contents n :=
  Ring.contents_congr (by simp) (by simp) (by simp)

theorem State.attemptSend_delivers {s t : State} (h : s.attemptSend = .next t) (hinv : s.q.Inv s.cfg.capacity) :
    s.Delivers t := by
  have hrest := State.attemptSend_rest h
  rcases s.attemptSend_cases with ⟨_, e⟩ | ⟨_, _, e⟩ | ⟨_, hroom, e⟩ <;> rw [e] at h <;> cases h
  · exact .of_keeps (State.bindPush_inv hinv) (hrest.totalSent_add 0 (by simp)) (hrest.totalReceived_add 0 (by simp))
      (by simp)
  · have hroom : (s.bindPush.q.head + 1) % s.cfg.capacity ≠ s.bindPush.q.tailP := by simpa using hroom
    refine .of_push ?_ (hrest.totalSent_add 1 (by simp [Vm.sendDone]))
      (hrest.totalReceived_add 0 (by simp [Vm.sendDone])) ?_
    · simpa using (State.bindPush_inv hinv).push hroom _
    · simpa [State.vm_active] using (State.bindPush_inv hinv).pushed_contents hroom (s.cur.reg 0)

theorem State.attemptRecv_delivers {s t : State} (h : s.attemptRecv = .next t) (hinv : s.q.Inv s.cfg.capacity) :
    s.Delivers t := by
  have hrest := State.attemptRecv_rest h
  rcases s.attemptRecv_cases with ⟨_, e⟩ | ⟨_, _, e⟩ | ⟨_, hitem, v, hv, e⟩ | ⟨_, _, _, e⟩ <;> rw [e] at h <;> cases h
  · exact .of_keeps (by simpa using State.bindPop_inv hinv) (hrest.totalSent_add 0 (by simp))
      (hrest.totalReceived_add 0 (by simp)) (by simp)
  · have hitem : s.bindPop.q.headC ≠ s.bindPop.q.tail := by simpa using hitem
    refine .of_pop ?_ (hrest.totalSent_add 0 (by simp [Vm.recvDone]))
      (hrest.totalReceived_add 1 (by simp [Vm.recvDone])) ?_
    · simpa using (State.bindPop_inv hinv).pop hitem
    · simpa [Vm.recvDone] using (State.bindPop_inv hinv).popped_contents hitem (v := v) (by simpa using hv)

theorem step_delivers {s t : State} (h : step s = .next t) (hinv : s.q.Inv s.cfg.capacity) : s.Delivers t := by
  rcases step_exchanges h with hidle | ⟨v, s', _, ⟨hb, he⟩ | ⟨hb, he⟩⟩
  · exact hidle.delivers hinv
  · have hinv' : s'.q.Inv s'.cfg.capacity := by rwa [hb.cfg, hb.ring.1]
    exact .of_begins hb ((State.attemptSend_rest he).active_eq.trans hb.active) (State.attemptSend_delivers he hinv')
  · have hinv' : s'.q.Inv s'.cfg.capacity := by rwa [hb.cfg, hb.ring.1]
    exact .of_begins hb ((State.attemptRecv_rest he).active_eq.trans hb.active) (State.attemptRecv_delivers he hinv')

/-! ### The instances through one step (R155, R158) -/

theorem effectOn_pend {i : Instr} (hs : i ≠ .trapSend) (hr : i ≠ .trapRecv) (c : Config) (x : Vm) :
    (effectOn c i x).pend = x.pend := by
  cases i with
  | trapSend => exact absurd rfl hs
  | trapRecv => exact absurd rfl hr
  | ld dr off9 => cases hc : c.ldSetsCC <;> simp [effectOn, hc, Vm.operate]
  | trapOut | trapHalt => cases hc : c.trapSavesR7 <;> simp [effectOn, hc, Vm.link]
  | _ => rfl

/-- Where an instruction leaves the instance inside a SEND or RECV, it is not counted and `running` is unchanged. -/
theorem Vm.Executes.spinning {c : Config} {x y : Vm} {i : Instr} (h : x.Executes c i y) (hx : x.pend = .none)
    (hy : y.pend ≠ .none) : y.running = x.running ∧ y.icount = x.icount := by
  cases h with
  | send h =>
    cases h with
    | waits => simp [effectOn]
    | done => exact absurd rfl hy
  | recv h =>
    cases h with
    | waits => simp [effectOn]
    | done v => exact absurd rfl hy
  | other hs hr => exact absurd ((effectOn_pend hs hr c x).trans hx) hy

theorem Vm.Turns.spinning {c : Config} {x y : Vm} (h : x.Turns c y) (hy : y.pend ≠ .none) :
    y.running = x.running ∧ y.icount = x.icount := by
  cases h with
  | stays => exact ⟨rfl, rfl⟩
  | executes hx h => exact h.spinning hx hy
  | sends _ h =>
    cases h with
    | waits => exact ⟨rfl, rfl⟩
    | done => exact absurd rfl hy
  | receives _ h =>
    cases h with
    | waits => exact ⟨rfl, rfl⟩
    | done v => exact absurd rfl hy

theorem Vm.Turns.inv {c : Config} {x y : Vm} {budget : Nat} (h : x.Turns c y) (hinv : x.Inv budget)
    (hrun : x.running = true) (hlt : x.icount < budget) : y.Inv budget := by
  obtain ⟨_, hcount, _⟩ := h.countersGrow
  refine ⟨?_, by omega, fun hp => ?_⟩
  · rcases h.mem_cases with e | ⟨_, sr, off9, _, e⟩ <;> rw [e]
    · exact hinv.memory
    · exact Memory.write_wf _ _ hinv.memory
  · obtain ⟨hr, hi⟩ := h.spinning hp
    exact ⟨hr.trans hrun, hi.trans_lt hlt⟩

/-- An instance that has terminated keeps its state in every step, its own turn included (R156, log entry 17). -/
theorem step_vm_of_terminated {s t : State} {v : VmId} (h : step s = .next t)
    (hterm : (s.vm v).terminated (s.cfg.budget v) = true) : t.vm v = s.vm v := by
  simp only [Vm.terminated, Bool.and_eq_true, decide_eq_true_eq, Bool.not_eq_true'] at hterm
  by_cases hv : s.turn = .vm v
  · rw [step_terminated hv hterm.1 hterm.2] at h
    cases h
    exact s.takeTurn_vm v
  · exact step_vm_of_turn_ne h hv

/-- An instance of the invariant that has not terminated runs with budget left, whether inside a SEND or RECV or
between instructions. -/
theorem Vm.Inv.ready {x : Vm} {budget : Nat} (h : x.Inv budget) (hterm : x.terminated budget ≠ true) :
    x.running = true ∧ x.icount < budget := by
  by_cases hp : x.pend = .none
  · simpa [Vm.terminated, Vm.mayIterate, hp] using hterm
  · exact h.spinning hp

theorem step_vm_inv {s t : State} {v : VmId} (h : step s = .next t) (hinv : (s.vm v).Inv (s.cfg.budget v)) :
    (t.vm v).Inv (s.cfg.budget v) := by
  by_cases hterm : (s.vm v).terminated (s.cfg.budget v) = true
  · rwa [step_vm_of_terminated h hterm]
  by_cases hv : s.turn = .vm v
  · obtain ⟨hrun, hlt⟩ := hinv.ready hterm
    exact (step_vm_of_turn h hv).inv hinv hrun hlt
  · rwa [step_vm_of_turn_ne h hv]

/-! ### The roles through one step (R127, D25) -/

/-- Instance `v` has sent a value or is inside a SEND. -/
def State.IsSender (s : State) (v : VmId) : Prop := 0 < (s.vm v).messagesSent ∨ (s.vm v).pend = .send

/-- Instance `v` has received a value or is inside a RECV. -/
def State.IsReceiver (s : State) (v : VmId) : Prop := 0 < (s.vm v).messagesReceived ∨ (s.vm v).pend = .recv

theorem State.Idles.isSender_iff {s t : State} (h : s.Idles t) (v : VmId) : t.IsSender v ↔ s.IsSender v := by
  obtain ⟨hs, _, hp⟩ := Vm.traffic_eq_iff.mp (h.traffic v)
  rw [State.IsSender, State.IsSender, hs, hp]

theorem State.Idles.isReceiver_iff {s t : State} (h : s.Idles t) (v : VmId) : t.IsReceiver v ↔ s.IsReceiver v := by
  obtain ⟨_, hr, hp⟩ := Vm.traffic_eq_iff.mp (h.traffic v)
  rw [State.IsReceiver, State.IsReceiver, hr, hp]

/-- An attempt of SEND makes nobody a receiver. -/
theorem Vm.SendAttempt.receiver {x y : Vm} (h : x.SendAttempt y) (hp : x.pend = .send)
    (hy : 0 < y.messagesReceived ∨ y.pend = .recv) : 0 < x.messagesReceived := by
  cases h with
  | waits => simpa [hp] using hy
  | done => simpa [Vm.sendDone] using hy

/-- An attempt of RECV makes nobody a sender. -/
theorem Vm.RecvAttempt.sender {x y : Vm} (h : x.RecvAttempt y) (hp : x.pend = .recv)
    (hy : 0 < y.messagesSent ∨ y.pend = .send) : 0 < x.messagesSent := by
  cases h with
  | waits => simpa [hp] using hy
  | done v => simpa [Vm.recvDone] using hy

theorem step_vm_other {s t : State} {v : VmId} (h : step s = .next t) (hv : s.turn = .vm v) :
    t.vm v.other = s.vm v.other :=
  step_vm_of_turn_ne h fun e => VmId.other_ne v (Turn.vm.inj (e.symm.trans hv))

/-- Where every sender is the producer, a step keeps it so: who attempts a SEND takes the role, and was free to. -/
theorem step_sender {s t : State} (h : step s = .next t) (hinv : ∀ v, s.IsSender v → s.producer = some v) (u : VmId)
    (hu : t.IsSender u) : t.producer = some u := by
  rcases step_exchanges h with hidle | ⟨v, s', hv, ⟨hb, he⟩ | ⟨hb, he⟩⟩
  · rw [hidle.producer]
    exact hinv u ((hidle.isSender_iff u).mp hu)
  · obtain ⟨hmay, hrole, _⟩ := State.attemptSend_ring he
    rw [State.mayPush, hb.active, hb.ring.2.1] at hmay
    rcases VmId.eq_or_eq_other u v with rfl | rfl
    · rw [hrole, hb.active]
    · rw [State.IsSender, step_vm_other h hv] at hu
      simp [hinv _ hu] at hmay
  · obtain ⟨_, _, hrole, _⟩ := State.attemptRecv_ring he
    rw [hrole, hb.ring.2.1]
    rcases VmId.eq_or_eq_other u v with rfl | rfl
    · rw [State.IsSender, (State.attemptRecv_rest he).vm_eq hb.active] at hu
      exact hinv u (.inl (hb.sent ▸ (attemptRecv_cur he).sender hb.pend hu))
    · rw [State.IsSender, step_vm_other h hv] at hu
      exact hinv _ hu

/-- Where every receiver is the consumer, a step keeps it so. -/
theorem step_receiver {s t : State} (h : step s = .next t) (hinv : ∀ v, s.IsReceiver v → s.consumer = some v)
    (u : VmId) (hu : t.IsReceiver u) : t.consumer = some u := by
  rcases step_exchanges h with hidle | ⟨v, s', hv, ⟨hb, he⟩ | ⟨hb, he⟩⟩
  · rw [hidle.consumer]
    exact hinv u ((hidle.isReceiver_iff u).mp hu)
  · obtain ⟨_, _, hrole, _⟩ := State.attemptSend_ring he
    rw [hrole, hb.ring.2.2]
    rcases VmId.eq_or_eq_other u v with rfl | rfl
    · rw [State.IsReceiver, (State.attemptSend_rest he).vm_eq hb.active] at hu
      exact hinv u (.inl (hb.received ▸ (attemptSend_cur he).receiver hb.pend hu))
    · rw [State.IsReceiver, step_vm_other h hv] at hu
      exact hinv _ hu
  · obtain ⟨hmay, hrole, _⟩ := State.attemptRecv_ring he
    rw [State.mayPop, hb.active, hb.ring.2.2] at hmay
    rcases VmId.eq_or_eq_other u v with rfl | rfl
    · rw [hrole, hb.active]
    · rw [State.IsReceiver, step_vm_other h hv] at hu
      simp [hinv _ hu] at hmay

/-! ### The machine's invariant and whole runs (R130, R132, R208) -/

/-- The count of sent values runs ahead of the received ones by what is outstanding, and a step that delivers keeps it
so. -/
theorem State.Delivers.balance {s t : State} (h : s.Delivers t) (hinv : s.q.Inv s.cfg.capacity)
    (hb : s.totalSent = s.totalReceived + s.q.count s.cfg.capacity) :
    t.totalSent = t.totalReceived + t.q.count s.cfg.capacity := by
  have hlen := congrArg List.length h.order
  rw [List.length_append, List.length_append, hinv.contents_length, h.ring.contents_length] at hlen
  rw [h.sent, h.received]
  omega

/-- Settles O48: the ring and the balance by what the step delivers, the instances and the roles each on their own. -/
theorem stepKeepsInvariant : Obligations.StepKeepsInvariant := by
  intro s t hinv h
  have hcfg := stepKeepsConfig s t h
  have hdel := step_delivers h hinv.ring
  constructor
  case config => rw [hcfg, hinv.config]
  case ring => rw [hcfg]; exact hdel.ring
  case vms => rw [hcfg]; exact fun v => step_vm_inv h (hinv.vms v)
  case balance => rw [hcfg]; exact hdel.balance hinv.ring hinv.balance
  case sender => exact step_sender h hinv.sender
  case receiver => exact step_receiver h hinv.receiver

/-- Settles O51, by induction on the number of steps: each step delivers in order from a state of the invariant. -/
theorem runDeliversInOrder : Obligations.RunDeliversInOrder := by
  intro k
  induction k with
  | zero =>
    intro s t _ h
    cases h
    exact List.append_nil _
  | succ k ih =>
    intro s t hinv h
    rcases hs : step s with u | f | r <;> simp only [stateAfter, hs] at h
    · have hrest := ih u t (stepKeepsInvariant s u hinv hs) h
      have hfirst := (step_delivers hs hinv.ring).order
      rw [stepKeepsConfig s u hs] at hrest
      simp only [pushedIn, poppedIn, hs]
      rw [← List.append_assoc, hfirst, List.append_assoc, hrest, List.append_assoc]
    · cases h
    · cases h

/-! ### Full and empty (R131, R133, R134) -/

theorem Ring.push_eq_none_iff (n : Nat) (q : Ring) (v : Word) : q.push n v = none ↔ (q.head + 1) % n = q.tailP := by
  rcases Ring.push_cases n q v with ⟨h, e⟩ | ⟨h, e⟩ <;> simp [h, e]

theorem Ring.pop_eq_empty_iff (n : Nat) (q : Ring) : q.pop n = .empty ↔ q.headC = q.tail := by
  rcases Ring.pop_cases n q with ⟨h, e⟩ | ⟨h, v, _, e⟩ | ⟨h, _, e⟩ <;> simp [h, e]

theorem Ring.Inv.pop_ne_unwritten {n : Nat} {q : Ring} (h : q.Inv n) : q.pop n ≠ .unwritten := by
  rcases Ring.pop_cases n q with ⟨_, e⟩ | ⟨_, v, _, e⟩ | ⟨hne, hnone, _⟩
  · simp [e]
  · simp [e]
  · obtain ⟨v, hv⟩ := h.oldest_written hne
    cases hnone.symm.trans hv

/-- Settles O44: an operation fails where its view says so; the view errs on one side only, and a current one not at
all. -/
theorem fullAndEmptyAreExact : Obligations.FullAndEmptyAreExact := by
  intro n q v h
  have hlt := h.count_lt
  rw [Ring.push_eq_none_iff, Ring.pop_eq_empty_iff]
  refine ⟨fun hfull => ?_, fun hnone => ?_, fun hview => ?_, fun hview => ?_, h.pop_ne_unwritten⟩
  · by_contra hroom
    have := h.count_room hroom
    omega
  · by_contra hitem
    have := h.count_pos hitem
    omega
  · rw [hview, ← not_iff_not, ← Ne, ← h.count_room_iff]
    omega
  · rw [hview, ← not_iff_not, ← Ne, ← h.count_pos_iff]
    omega

/-! ### The roles (R127, R233, D25) -/

/-- Settles O46: an attempt binds its role, and an instruction without one keeps the ring's users. -/
theorem attemptTakesTheRole : Obligations.AttemptTakesTheRole := by
  refine ⟨fun s t h => ?_, fun s t h => ?_, fun s t i hs hr h => (exec_next_local hs hr h).ring.2, fun s t v hv h =>
    ⟨fun hp => ?_, fun hp => ?_⟩⟩
  · rw [exec_trapSend] at h
    obtain ⟨_, hp, hc, _⟩ := State.attemptSend_ring h
    simpa using And.intro hp hc
  · rw [exec_trapRecv] at h
    obtain ⟨_, hc, hp, _⟩ := State.attemptRecv_ring h
    simpa using And.intro hc hp
  · rw [step_send hv hp] at h
    obtain ⟨_, hp, hc, _⟩ := State.attemptSend_ring h
    exact ⟨hp, hc⟩
  · rw [step_recv hv hp] at h
    obtain ⟨_, hc, hp, _⟩ := State.attemptRecv_ring h
    exact ⟨hc, hp⟩

theorem State.not_mayPush_of_other {s : State} (h : s.producer = some s.active.other) : ¬ s.mayPush := by
  simp [State.mayPush, h]

theorem State.not_mayPop_of_other {s : State} (h : s.consumer = some s.active.other) : ¬ s.mayPop := by
  simp [State.mayPop, h]

/-- Settles O47: a pending attempt is made in the step, and a fetched SEND or RECV makes its first one. -/
theorem secondAgentIsViolation : Obligations.SecondAgentIsViolation := by
  intro s v hv
  constructor
  · rintro hother (hp | ⟨hp, hr, hb, hd⟩)
    · rw [step_send hv hp]
      exact State.attemptSend_of_not_mayPush (State.not_mayPush_of_other hother)
    · rw [step_iterate hv hp (Vm.mayIterate_of_lt hr hb), State.wordAtPc, hd, exec_trapSend,
        State.attemptSend_of_not_mayPush (State.not_mayPush_of_other (by simpa [State.fetched] using hother))]
      simp
  · rintro hother (hp | ⟨hp, hr, hb, hd⟩)
    · rw [step_recv hv hp]
      exact State.attemptRecv_of_not_mayPop (State.not_mayPop_of_other hother)
    · rw [step_iterate hv hp (Vm.mayIterate_of_lt hr hb), State.wordAtPc, hd, exec_trapRecv,
        State.attemptRecv_of_not_mayPop (State.not_mayPop_of_other (by simpa [State.fetched] using hother))]
      simp

/-! ### Sync turns (R126) -/

theorem chase_eq (n index i : Nat) : chase n index i = if i = index then index else (i + 1) % n := by
  rw [chase, ite_not]
  split
  · next h => exact h
  · rfl

/-- Settles O41: a Sync turn moves its agent's view one slot towards the index. -/
theorem syncAdvancesLaggingView : Obligations.SyncAdvancesLaggingView := by
  refine fun s => ⟨fun hv => ⟨_, step_syncTail hv, ?_, by simp, rfl, rfl, rfl, rfl, rfl⟩,
    fun hv => ⟨_, step_syncHead hv, ?_, by simp, rfl, rfl, rfl, rfl, rfl⟩⟩
  · rw [State.syncTail_q, Ring.syncTail_eq, chase_eq]
    rfl
  · rw [State.syncHead_q, Ring.syncHead_eq, chase_eq]
    rfl

/-! ### The Gray code (R141) -/

theorem grayEncode_lt {k b : Nat} (h : b < 2 ^ k) : grayEncode b < 2 ^ k :=
  Nat.xor_lt_two_pow h ((Nat.shiftRight_le b 1).trans_lt h)

theorem grayEncode_div_two (b : Nat) : grayEncode b / 2 = grayEncode (b / 2) := by
  simp [grayEncode, Nat.xor_div_two, Nat.shiftRight_succ]

theorem grayEncode_mod_two (b : Nat) : grayEncode b % 2 = (b + b / 2) % 2 := by
  rw [grayEncode, Nat.xor_mod_two_eq, Nat.shiftRight_one]

theorem grayDecode_grayEncode (k b : Nat) (h : b < 2 ^ k) : grayDecode k (grayEncode b) = b := by
  induction k generalizing b with
  | zero => rw [Nat.lt_one_iff.mp h]; rfl
  | succ k ih =>
    have hmod := grayEncode_mod_two b
    rw [grayDecode, grayEncode_div_two, ih (b / 2) (by omega)]
    omega

theorem grayEncode_xor_div_two (b c : Nat) :
    (grayEncode b ^^^ grayEncode c) / 2 = grayEncode (b / 2) ^^^ grayEncode (c / 2) := by
  rw [Nat.xor_div_two, grayEncode_div_two, grayEncode_div_two]

theorem grayEncode_xor_mod_two (b c : Nat) : (grayEncode b ^^^ grayEncode c) % 2 = (b + b / 2 + (c + c / 2)) % 2 := by
  rw [Nat.xor_mod_two_eq, Nat.add_mod, grayEncode_mod_two, grayEncode_mod_two, ← Nat.add_mod]

/-- After an even index the lowest bit changes; after an odd one, the bit that the halved indices differ in. -/
theorem grayEncode_xor_succ (k b : Nat) (h : b < 2 ^ (k + 1)) :
    ∃ i < k + 1, grayEncode b ^^^ grayEncode ((b + 1) % 2 ^ (k + 1)) = 2 ^ i := by
  induction k generalizing b with
  | zero =>
    refine ⟨0, by decide, ?_⟩
    interval_cases b <;> decide
  | succ k ih =>
    have hpow : 2 ^ (k + 1 + 1) = 2 * 2 ^ (k + 1) := Nat.pow_succ'
    have hhalf : b / 2 < 2 ^ (k + 1) := by omega
    have hdiv := grayEncode_xor_div_two b ((b + 1) % 2 ^ (k + 1 + 1))
    have hmod := grayEncode_xor_mod_two b ((b + 1) % 2 ^ (k + 1 + 1))
    rcases Nat.mod_two_eq_zero_or_one b with heven | hodd
    · have hnext : (b + 1) % 2 ^ (k + 1 + 1) = b + 1 := Nat.mod_eq_of_lt (by omega)
      have hsame : (b + 1) / 2 = b / 2 := by omega
      rw [hnext, hsame] at hdiv hmod
      rw [Nat.xor_self] at hdiv
      exact ⟨0, by omega, by rw [hnext]; omega⟩
    · obtain ⟨i, hi, hbit⟩ := ih (b / 2) hhalf
      have hnext : (b + 1) % 2 ^ (k + 1 + 1) = 2 * ((b / 2 + 1) % 2 ^ (k + 1)) := by
        rw [succ_mod h, succ_mod hhalf]
        split_ifs <;> omega
      have hflip : (b / 2 + (b / 2 + 1) % 2 ^ (k + 1)) % 2 = 1 := by
        rw [succ_mod hhalf]
        split_ifs <;> omega
      rw [hnext] at hdiv hmod ⊢
      rw [Nat.mul_div_cancel_left _ Nat.two_pos] at hdiv hmod
      rw [hbit] at hdiv
      exact ⟨i + 1, by omega, by rw [pow_succ 2 i]; omega⟩

/-- Settles O60: the synchroniser's second flop holds the code of the index sampled two clocks before. -/
theorem grayCrossing : Obligations.GrayCrossing := by
  refine ⟨fun k b h => ⟨grayDecode_grayEncode k b h, grayEncode_lt h⟩, fun k b hk h => ?_, fun k b _ h =>
    grayDecode_grayEncode k b h⟩
  obtain ⟨k, rfl⟩ := Nat.exists_eq_add_of_le' hk
  exact grayEncode_xor_succ k b h

end Sys2Proof.Machine
end

section
/-! Proofs for 41_cycle.md: what a loop iteration fetches and executes (R150 to R153), when it is counted (R154), and
how an instance stops (R155, R156, R43). -/

namespace Sys2Proof.Machine

/-! ### A terminated instance (R155, R156) -/

theorem Vm.mayIterate_eq_false_iff {x : Vm} {budget : Nat} :
    x.mayIterate budget = false ↔ x.running = false ∨ budget ≤ x.icount := by
  rw [Vm.mayIterate, Bool.and_eq_false_iff, decide_eq_false_iff_not, Nat.not_lt]

theorem Vm.terminated_iff {x : Vm} {budget : Nat} :
    x.terminated budget = true ↔ x.pend = .none ∧ (x.running = false ∨ budget ≤ x.icount) := by
  rw [Vm.terminated, Bool.and_eq_true, decide_eq_true_eq, Bool.not_eq_true', Vm.mayIterate_eq_false_iff]

/-- Settles O28: no step changes a terminated instance or the parameters, and in its own turn only the turn is
taken. -/
theorem terminatedInstanceIsFrozen : Obligations.TerminatedInstanceIsFrozen := by
  intro s v hp hstop
  have hterm : (s.vm v).terminated (s.cfg.budget v) = true := Vm.terminated_iff.2 ⟨hp, hstop⟩
  refine ⟨fun t h => ?_, fun hv => ?_⟩
  · have hkept : t.vm v = s.vm v := step_vm_of_terminated h hterm
    refine ⟨hkept, ?_⟩
    rwa [hkept, stepKeepsConfig s t h]
  · exact ⟨s.takeTurn, step_terminated hv hp (Vm.mayIterate_eq_false_iff.2 hstop), s.takeTurn_vm,
      rfl, rfl, rfl, rfl, rfl, rfl, rfl⟩

/-! ### The count of iterations (R154) -/

/-- How a SEND or RECV is counted: `y` has one iteration more than `x` if `y` is between instructions, so that it has
completed, and otherwise as many. -/
def Vm.CountsIfDone (x y : Vm) : Prop := y.icount = x.icount + (if y.pend = .none then 1 else 0)

theorem Vm.CountsIfDone.of_pending {x y : Vm} (hp : y.pend ≠ .none) (hi : y.icount = x.icount) :
    x.CountsIfDone y := by
  rw [Vm.CountsIfDone, if_neg hp, hi, Nat.add_zero]

theorem Vm.CountsIfDone.of_done {x y : Vm} (hp : y.pend = .none) (hi : y.icount = x.icount + 1) : x.CountsIfDone y := by
  rw [Vm.CountsIfDone, if_pos hp, hi]

theorem Vm.CountsIfDone.of_icount_eq {x x' y : Vm} (h : x'.CountsIfDone y) (hi : x'.icount = x.icount) :
    x.CountsIfDone y := by
  rwa [Vm.CountsIfDone, ← hi]

theorem Vm.SendAttempt.countsIfDone {x y : Vm} (h : x.SendAttempt y) (hp : x.pend ≠ .none) : x.CountsIfDone y := by
  cases h with
  | waits => exact .of_pending hp rfl
  | done => exact .of_done rfl rfl

theorem Vm.RecvAttempt.countsIfDone {x y : Vm} (h : x.RecvAttempt y) (hp : x.pend ≠ .none) : x.CountsIfDone y := by
  cases h with
  | waits => exact .of_pending hp rfl
  | done v => exact .of_done rfl rfl

/-- A fetched SEND or RECV is pending and not yet counted as it makes its first attempt. -/
theorem Vm.Executes.countsIfDone {c : Config} {x y : Vm} {i : Instr} (h : x.Executes c i y)
    (hi : i = .trapSend ∨ i = .trapRecv) : x.CountsIfDone y := by
  cases h with
  | send h => exact (h.countsIfDone (by simp [effectOn])).of_icount_eq (by simp [effectOn])
  | recv h => exact (h.countsIfDone (by simp [effectOn])).of_icount_eq (by simp [effectOn])
  | other hs hr => exact absurd hi (not_or.2 ⟨hs, hr⟩)

/-- The turn of an instance inside a SEND or RECV is a further attempt of it. -/
theorem Vm.Turns.countsIfDone {c : Config} {x y : Vm} (h : x.Turns c y) (hp : x.pend ≠ .none) : x.CountsIfDone y := by
  cases h with
  | stays => exact .of_pending hp rfl
  | executes hx _ => exact absurd hx hp
  | sends _ h => exact h.countsIfDone hp
  | receives _ h => exact h.countsIfDone hp

/-- Settles O29: an instruction without an attempt is counted as it executes, one with an attempt when the attempt
leaves the instance between instructions. -/
theorem everyIterationCountsOnce : Obligations.EveryIterationCountsOnce := by
  refine ⟨fun s t i h hs hr => ?_, fun s t i h hi => ?_, fun s t v hv hp h => ?_⟩
  · obtain ⟨hcount, _⟩ := (exec_next_local hs hr h).counted
    exact hcount
  · exact (exec_executes h).countsIfDone hi
  · exact (step_vm_of_turn h hv).countsIfDone hp

/-! ### Fetch and execute (R150 to R153) -/

theorem nextAddr_eq_ofNat (pc : Word) : nextAddr pc = BitVec.ofNat 16 ((pc.toNat + 1) % 65536) := by
  apply BitVec.eq_of_toNat_eq
  simp [nextAddr]

theorem Vm.fetched_eq (x : Vm) : x.fetched = { x with pc := BitVec.ofNat 16 ((x.pc.toNat + 1) % 65536) } := by
  rw [Vm.fetched, nextAddr_eq_ofNat, Vm.setPc]

@[simp] theorem State.fetched_vm_self (s : State) (v : VmId) : (s.fetched v).vm v = (s.vm v).fetched := by
  rw [← s.fetched_cur v, State.cur, s.fetched_active]
@[simp] theorem State.fetched_sched (s : State) (v : VmId) : (s.fetched v).sched = s.sched.tail := by
  simp [State.fetched]
@[simp] theorem State.fetched_tick (s : State) (v : VmId) : (s.fetched v).tick = s.tick + 1 := by
  simp [State.fetched]

/-- Settles O27: the instruction executes in the state in which the turn is taken and the pc incremented. -/
theorem stepRunsDecodedInstruction : Obligations.StepRunsDecodedInstruction := by
  rintro s v i hv hp hrun hlt rfl
  obtain ⟨hq, hproducer, hconsumer⟩ := s.fetched_ringKept v
  exact ⟨s.fetched v, step_iterate hv hp (Vm.mayIterate_of_lt hrun hlt), s.fetched_active v,
    (s.fetched_vm_self v).trans (s.vm v).fetched_eq, s.fetched_vm_other v, s.fetched_cfg v, hq, hproducer, hconsumer,
    s.fetched_out v, s.fetched_sched v, s.fetched_tick v⟩

/-! ### The two kinds of stop (R156) -/

theorem Vm.stopKind_of_terminated {x : Vm} {budget : Nat} (h : x.terminated budget = true) :
    x.stopKind budget = some (if x.running then .budget else .halt) := by
  rw [Vm.stopKind, if_pos h]

/-- Settles O30: `running` tells the kind, and an instance that still runs has stopped at its budget, which by the
invariant it has not passed. -/
theorem stopKindsAreDistinguishable : Obligations.StopKindsAreDistinguishable := by
  intro x budget hinv hterm
  rw [Vm.stopKind_of_terminated hterm]
  cases hrun : x.running with
  | false => simp
  | true =>
    obtain ⟨_, hstop⟩ := Vm.terminated_iff.1 hterm
    have hspent : budget ≤ x.icount := hstop.resolve_left (by simp [hrun])
    have hcount : x.icount = budget := le_antisymm hinv.counted hspent
    simp [hcount]

end Sys2Proof.Machine
end

section
/-! Proofs for 42_operate.md: the formats of ADD, AND and NOT in both modes (R93, R94), and the result, the flags and
the frame of each (R170 to R175). -/

namespace Sys2Proof.Machine

/-! ### The two modes of ADD and AND (R94) -/

/-- Mode bit 0: the second operand of ADD and of AND, which share their operand bits, is a register. -/
theorem registerMode_operandBits_hold {w : Word} (hmode : wordBits w 5 5 = 0) :
    ∀ b ∈ operandBits (.addReg (regAt w 11 9) (regAt w 8 6) (regAt w 2 0)), b.Holds w := by
  simp [operandBits, Bits.Holds, regAt_val, hmode]

/-- Mode bit 1: the second operand of ADD and of AND is the immediate. -/
theorem immediateMode_operandBits_hold {w : Word} (hmode : wordBits w 5 5 = 1) :
    ∀ b ∈ operandBits (.addImm (regAt w 11 9) (regAt w 8 6) (BitVec.ofNat 5 (wordBits w 4 0))), b.Holds w := by
  simp [← fieldImm5_eq, operandBits, Bits.Holds, regAt_val, hmode]

/-- The immediate is sign-extended to a word before it is used (R172, R174). -/
theorem immOperand_toNat (imm5 : BitVec 5) : (immOperand imm5).toNat = sextNat 5 imm5.toNat :=
  sext_toNat (by decide) imm5

/-! ### How an operate instruction ends (R170) -/

theorem State.writeResult_retire_eq (s : State) (dr : RegId) (v : Word) :
    (s.writeResult dr v).retire = s.updCur (Vm.operate dr v) := by
  simp only [State.writeResult_eq, State.retire_eq, State.updCur_updCur]
  rfl

theorem State.updCur_outsideKept (s : State) (f : Vm → Vm) : s.OutsideKept (s.updCur f) := by
  simp [State.OutsideKept, State.RestKept, State.RingKept]

/-- The common end of ADD, AND and NOT, whatever the destination register held before. -/
theorem State.writeResult_retire_operates (s : State) (dr : RegId) {v : Word} {r : Nat} (hv : v.toNat = r) :
    s.Operates (s.writeResult dr v).retire dr r := by
  rw [State.writeResult_retire_eq, State.Operates, State.updCur_cur]
  have hreg : (s.cur.operate dr v).reg dr = v := by simp [Vm.operate]
  have hcounted : s.cur.Counted (s.cur.operate dr v) := by simp [Vm.Counted, Vm.operate]
  exact ⟨by rw [hreg, hv], s.cur.operate_condReads dr v, s.cur.setReg_regsKept dr v, rfl, fun _ => rfl, hcounted,
    ⟨rfl, rfl⟩, s.updCur_outsideKept _⟩

/-! ### The instructions (R171 to R175) -/

/-- Settles O8: the sum of two words is taken modulo 2^16. -/
theorem addRegisterMode : Obligations.AddRegisterMode := by
  refine ⟨fun w hop hmode => ?_, fun dr sr1 sr2 s => ⟨_, rfl, s.writeResult_retire_operates dr ?_⟩⟩
  · exact decode_of_encodes rfl (encodes_iff.2 ⟨hop, registerMode_operandBits_hold hmode⟩)
  · exact BitVec.toNat_add ..

/-- Settles O9: the sum with the sign-extended immediate is taken modulo 2^16. -/
theorem addImmediateMode : Obligations.AddImmediateMode := by
  refine ⟨fun w hop hmode => ?_, fun dr sr1 imm5 s => ⟨_, rfl, s.writeResult_retire_operates dr ?_⟩⟩
  · exact decode_of_encodes rfl (encodes_iff.2 ⟨hop, immediateMode_operandBits_hold hmode⟩)
  · rw [BitVec.toNat_add, immOperand_toNat, State.readReg_eq]

/-- Settles O10: the AND of two words is the AND of the numbers they hold. -/
theorem andRegisterMode : Obligations.AndRegisterMode := by
  refine ⟨fun w hop hmode => ?_, fun dr sr1 sr2 s => ⟨_, rfl, s.writeResult_retire_operates dr ?_⟩⟩
  · exact decode_of_encodes rfl (encodes_iff.2 ⟨hop, registerMode_operandBits_hold hmode⟩)
  · exact BitVec.toNat_and ..

/-- Settles O11: the AND is with the whole sign-extended word. -/
theorem andImmediateMode : Obligations.AndImmediateMode := by
  refine ⟨fun w hop hmode => ?_, fun dr sr1 imm5 s => ⟨_, rfl, s.writeResult_retire_operates dr ?_⟩⟩
  · exact decode_of_encodes rfl (encodes_iff.2 ⟨hop, immediateMode_operandBits_hold hmode⟩)
  · rw [BitVec.toNat_and, immOperand_toNat, State.readReg_eq]

/-- Settles O12: NOT has no mode, and the complement of a word is its distance from `0xFFFF`. -/
theorem notComplements : Obligations.NotComplements := by
  refine ⟨fun w hop => ?_, fun dr sr s => ⟨_, rfl, s.writeResult_retire_operates dr ?_⟩⟩
  · exact decode_of_encodes rfl (encodes_iff.2 ⟨hop, by simp [operandBits, Bits.Holds, regAt_val]⟩)
  · exact BitVec.toNat_not ..

end Sys2Proof.Machine
end

section
/-! Proofs for 43_load_store.md: the format of LD and ST (R93), the effective address (R180), and the result and the
frame of each (R181, R182). -/

namespace Sys2Proof.Machine

/-! ### The format and the effective address (R93, R180) -/

/-- LD and ST share their operand bits: the register, and the offset. -/
theorem registerOffset_operandBits_hold (w : Word) :
    ∀ b ∈ operandBits (.ld (regAt w 11 9) (BitVec.ofNat 9 (wordBits w 8 0))), b.Holds w := by
  simp [← fieldOff9_eq, operandBits, Bits.Holds, regAt_val]

theorem pcRel9_toNat (pc : Word) (off9 : BitVec 9) :
    (pcRel9 pc off9).toNat = (pc.toNat + sextNat 9 off9.toNat) % 65536 := by
  rw [pcRel9, BitVec.toNat_add, sext_toNat (by decide)]

theorem pcRel9_eq_ofNat (pc : Word) (off9 : BitVec 9) :
    pcRel9 pc off9 = BitVec.ofNat 16 ((pc.toNat + sextNat 9 off9.toNat) % 65536) := by
  rw [← pcRel9_toNat, BitVec.ofNat_toNat, BitVec.setWidth_eq]

/-! ### What LD and ST make of the instance -/

theorem effectOn_ld (c : Config) (dr : RegId) (off9 : BitVec 9) (x : Vm) :
    effectOn c (.ld dr off9) x = x.loadReg c.ldSetsCC dr (x.mem.read (pcRel9 x.pc off9)) := rfl

theorem effectOn_st (c : Config) (sr : RegId) (off9 : BitVec 9) (x : Vm) :
    effectOn c (.st sr off9) x = (x.store (pcRel9 x.pc off9) (x.reg sr)).count := rfl

theorem Vm.loadReg_reg (b : Bool) (dr : RegId) (v : Word) (x : Vm) : (x.loadReg b dr v).reg dr = v := by
  cases b <;> simp [Vm.operate]

theorem Vm.loadReg_memKept (b : Bool) (dr : RegId) (v : Word) (x : Vm) : x.MemKept (x.loadReg b dr v) := by
  cases b <;> exact fun _ => rfl

theorem Vm.loadReg_runKept (b : Bool) (dr : RegId) (v : Word) (x : Vm) : x.RunKept (x.loadReg b dr v) := by
  cases b <;> exact ⟨rfl, rfl⟩

/-- Only OUT of the instructions without an attempt has an effect outside the executing instance (R39). -/
theorem State.localEffect_outsideKept {i : Instr} (hi : i ≠ .trapOut) (s : State) : s.OutsideKept (s.localEffect i) :=
  ⟨s.localEffect_restKept i, s.localEffect_ringKept i, by simp [State.localEffect, emitted, hi]⟩

/-! ### The instructions (R181, R182) -/

/-- Settles O13: the loaded value goes to the register as it is, and `COND` follows it only where the load ends as an
operate instruction does. -/
theorem loadIsPcRelative : Obligations.LoadIsPcRelative := by
  refine ⟨fun w hop => ?_, fun dr off9 s => ⟨_, exec_local_eq (by simp) (by simp) s, ?_⟩⟩
  · exact decode_of_encodes rfl (encodes_iff.2 ⟨hop, registerOffset_operandBits_hold w⟩)
  · have hregs := effectOn_regsKept s.cfg (.ld dr off9) s.cur
    have hcounted := effectOn_counted (i := .ld dr off9) (by simp) (by simp) s.cfg s.cur
    have houtside : s.OutsideKept (s.localEffect (.ld dr off9)) := s.localEffect_outsideKept (by simp)
    rw [effectOn_ld] at hregs hcounted
    rw [State.localEffect_cur, effectOn_ld]
    refine ⟨?_, fun hcc => ?_, fun hcc => ?_, hregs, Vm.loadReg_pc .., s.cur.loadReg_memKept _ dr _, hcounted,
      s.cur.loadReg_runKept _ dr _, houtside⟩
    · rw [Vm.loadReg_reg, pcRel9_eq_ofNat]
    · rw [hcc]
      exact s.cur.operate_condReads dr _
    · rw [hcc]
      rfl

/-- Settles O14: the effective address is a word, so the stored value is read at that cell, and at every other cell
what was there before. -/
theorem storeIsPcRelative : Obligations.StoreIsPcRelative := by
  refine ⟨fun w hop => ?_, fun sr off9 s => ⟨_, exec_local_eq (by simp) (by simp) s, ?_⟩⟩
  · exact decode_of_encodes rfl (encodes_iff.2 ⟨hop, registerOffset_operandBits_hold w⟩)
  · have hcounted := effectOn_counted (i := .st sr off9) (by simp) (by simp) s.cfg s.cur
    have houtside : s.OutsideKept (s.localEffect (.st sr off9)) := s.localEffect_outsideKept (by simp)
    rw [effectOn_st] at hcounted
    rw [State.localEffect_cur, effectOn_st]
    refine ⟨fun hwf => ?_, fun _ _ => rfl, rfl, rfl, hcounted, ⟨rfl, rfl⟩, houtside⟩
    rw [Vm.count_mem, Vm.store_mem, ← pcRel9_eq_ofNat, ← pcRel9_toNat]
    refine ⟨?_, fun a ha => ?_⟩
    · rw [Memory.read_write hwf, if_pos rfl]
    · rw [Memory.read_write hwf, if_neg (mt (congrArg BitVec.toNat) ha)]

end Sys2Proof.Machine
end

section
/-! Proofs for 44_control.md: the formats of BR, JSR and JMP (R93), their targets, and their frame (R191 to R193). -/

namespace Sys2Proof.Machine

/-! ### The outcome table and the targets (R191, R192) -/

/-- The mask is tested against `COND` as R191's table says. -/
theorem branchTaken_iff (mask : BitVec 3) (c : Cond) : branchTaken mask c = true ↔ mask.toNat ∈ takenMasks c := by
  cases c <;> decide +revert

theorem pcRel11_toNat (pc : Word) (off11 : BitVec 11) :
    (pcRel11 pc off11).toNat = (pc.toNat + sextNat 11 off11.toNat) % 65536 := by
  rw [pcRel11, BitVec.toNat_add, sext_toNat (by decide)]

theorem effectOn_br_pc_toNat (c : Config) (mask : BitVec 3) (off9 : BitVec 9) (x : Vm) :
    (effectOn c (.br mask off9) x).pc.toNat =
      if mask.toNat ∈ takenMasks x.cond then (x.pc.toNat + sextNat 9 off9.toNat) % 65536 else x.pc.toNat := by
  simp only [effectOn, Vm.count_pc, Vm.setPc_pc, apply_ite BitVec.toNat, pcRel9_toNat, branchTaken_iff]

/-- The target is relative to the pc that the link saves: writing the link first does not move it. -/
theorem effectOn_jsr (c : Config) (off11 : BitVec 11) (x : Vm) :
    effectOn c (.jsr off11) x = ((x.setReg 7 x.pc).setPc (pcRel11 x.pc off11)).count := rfl

theorem effectOn_jmp (c : Config) (baseR : RegId) (x : Vm) :
    effectOn c (.jmp baseR) x = (x.setPc (x.reg baseR)).count := rfl

/-! ### The frame of a control transfer (R190) -/

/-- BR, JSR and JMP write the pc, the link register of JSR and the count, and nothing else. -/
theorem State.localEffect_transfers {i : Instr} {s : State} {target : Nat} (hi : i.row ∈ [.br, .jsr, .jmp])
    (htarget : (effectOn s.cfg i s.cur).pc.toNat = target) :
    s.Transfers (s.localEffect i) target (writesRegs s.cfg i) := by
  rw [State.Transfers, State.localEffect_cur]
  have hregs := effectOn_regsKept s.cfg i s.cur
  cases i with
  | br _ _ | jsr _ | jmp _ =>
    exact ⟨htarget, hregs, rfl, fun _ => rfl, ⟨rfl, rfl, rfl, rfl⟩, ⟨rfl, rfl⟩, s.localEffect_outsideKept (by simp)⟩
  | _ => simp [Instr.row] at hi

/-! ### The instructions (R191 to R193) -/

/-- Settles O16: the pc becomes the target in the rows of the outcome table that are taken, and stays in the others. -/
theorem branchOutcomes : Obligations.BranchOutcomes := by
  refine ⟨fun w hop => ?_, fun mask off9 s => ⟨_, exec_local_eq (by simp) (by simp) s, ?_⟩⟩
  · refine decode_of_encodes rfl (encodes_iff.2 ⟨hop, ?_⟩)
    simp [← fieldMask_eq, ← fieldOff9_eq, operandBits, Bits.Holds]
  · exact State.localEffect_transfers (by simp [Instr.row]) (effectOn_br_pc_toNat ..)

/-- Settles O18: bit 11 is no operand bit of JSR, and the link and the target are both made of the incremented pc. -/
theorem jsrLinksAndJumps : Obligations.JsrLinksAndJumps := by
  refine ⟨fun w hop => ?_, fun off11 s => ⟨_, exec_local_eq (by simp) (by simp) s, ?_, ?_⟩⟩
  · refine decode_of_encodes rfl (encodes_iff.2 ⟨hop, ?_⟩)
    simp [← fieldOff11_eq, operandBits, Bits.Holds]
  · rw [State.localEffect_cur, effectOn_jsr, Vm.count_reg, Vm.setPc_reg, Vm.setReg_reg_self]
  · refine State.localEffect_transfers (by simp [Instr.row]) ?_
    rw [effectOn_jsr, Vm.count_pc, Vm.setPc_pc, pcRel11_toNat]

/-- Settles O19: the target is the register's value, which is a word already. -/
theorem jmpJumps : Obligations.JmpJumps := by
  refine ⟨fun w hop => ?_, fun baseR s => ⟨_, exec_local_eq (by simp) (by simp) s, ?_⟩⟩
  · exact decode_of_encodes rfl (encodes_iff.2 ⟨hop, by simp [operandBits, Bits.Holds, regAt_val]⟩)
  · refine State.localEffect_transfers (by simp [Instr.row]) ?_
    rw [effectOn_jmp, Vm.count_pc, Vm.setPc_pc]

end Sys2Proof.Machine
end

section
/-! Proofs for 45_trap.md: the format of a TRAP word (R93, R202), what TRAP leaves in `x[7]` (R201), OUT, HALT and the
unrecognised vectors (R204, R205, R212), an attempt of SEND and of RECV, pending or fetched (R206, R207), and the
consumer's lag (R208). -/

namespace Sys2Proof.Machine

/-! ### The registers after a recognised TRAP (R201) -/

@[simp] theorem Vm.link_mem (b : Bool) (x : Vm) : (x.link b).mem = x.mem := by cases b <;> rfl
@[simp] theorem Vm.link_pend (b : Bool) (x : Vm) : (x.link b).pend = x.pend := by cases b <;> rfl

theorem Vm.link_reg_seven (b : Bool) (x : Vm) : (x.link b).reg 7 = if b then x.pc else x.reg 7 := by
  cases b
  · rfl
  · exact x.setReg_reg_self 7 x.pc

/-- A service that writes the registers `written` after the link leaves the link in `x[7]`, and all others as they
were before the TRAP. -/
theorem State.regsKept_trapLinks_of_link {s t : State} {written : List RegId} (h7 : 7 ∉ written)
    (h : (s.cur.link s.cfg.trapSavesR7).RegsKept t.cur written) :
    s.cur.RegsKept t.cur (written ++ [7]) ∧ s.TrapLinks t := by
  refine ⟨fun r hr => ?_, (h 7 h7).trans (Vm.link_reg_seven ..)⟩
  simp only [List.mem_append, not_or] at hr
  obtain ⟨hwritten, hlink⟩ := hr
  rw [h r hwritten]
  refine Vm.link_regsKept _ _ r ?_
  split
  · exact hlink
  · exact List.not_mem_nil

/-! ### OUT and HALT (R204, R205) -/

theorem effectOn_trapOut (c : Config) (x : Vm) : effectOn c .trapOut x = (x.link c.trapSavesR7).count := rfl

theorem effectOn_trapHalt (c : Config) (x : Vm) : effectOn c .trapHalt x = (x.link c.trapSavesR7).halt.count := rfl

/-- Settles O20: OUT reads `x[0]`, which the link does not touch, and emits its low byte. -/
theorem outEmitsLowByte : Obligations.OutEmitsLowByte := by
  refine ⟨fun w hop => (decode_eq_iff_vector hop rfl rfl).2, fun s => ⟨_, exec_local_eq (by simp) (by simp) s, ?_⟩⟩
  have hcounted := effectOn_counted (i := .trapOut) (by simp) (by simp) s.cfg s.cur
  obtain ⟨hregs, hlinks⟩ := State.regsKept_trapLinks_of_link (s := s) (t := s.localEffect .trapOut) (written := [])
    (by simp) (by rw [State.localEffect_cur]; exact fun _ _ => rfl)
  refine ⟨?_, hregs, hlinks, ?_⟩
  · exact congrArg (s.out ++ [·]) (lowByte_eq _)
  · rw [effectOn_trapOut] at hcounted
    rw [State.localEffect_cur, effectOn_trapOut]
    exact ⟨by simp, by simp, fun _ => by simp, hcounted, by simp [Vm.RunKept], s.localEffect_restKept _,
      s.localEffect_ringKept _⟩

/-- Settles O21: an instance that does not run has terminated once it is between instructions. -/
theorem haltClearsRunning : Obligations.HaltClearsRunning := by
  refine ⟨fun w hop => (decode_eq_iff_vector hop rfl rfl).2, fun s => ⟨_, exec_local_eq (by simp) (by simp) s, ?_⟩⟩
  have hcounted := effectOn_counted (i := .trapHalt) (by simp) (by simp) s.cfg s.cur
  have houtside : s.OutsideKept (s.localEffect .trapHalt) := s.localEffect_outsideKept (by simp)
  obtain ⟨hregs, hlinks⟩ := State.regsKept_trapLinks_of_link (s := s) (t := s.localEffect .trapHalt) (written := [])
    (by simp) (by rw [State.localEffect_cur]; exact fun _ _ => rfl)
  rw [State.localEffect_cur] at hregs ⊢
  rw [effectOn_trapHalt] at *
  have hpend : ((s.cur.link s.cfg.trapSavesR7).halt.count).pend = s.cur.pend := by simp
  exact ⟨rfl, fun hp => Vm.terminated_iff.2 ⟨hpend.trans hp, .inl rfl⟩, hregs, hlinks, hpend, by simp, by simp,
    fun _ => by simp, hcounted, houtside⟩

/-! ### Words without effect (R212, R220) -/

theorem State.onlyCounted_count (s : State) : s.OnlyCounted (s.updCur Vm.count) := by
  rw [State.OnlyCounted, State.updCur_cur]
  exact ⟨fun _ _ => rfl, rfl, rfl, fun _ => rfl, ⟨rfl, rfl, rfl, rfl⟩, ⟨rfl, rfl⟩, s.updCur_outsideKept _⟩

theorem exec_unclaimed_onlyCounted {i : Instr} {s : State} (hi : unclaimed i = true)
    (h : s.cfg.unrecognized = .nop) : ∃ t, exec i s = .next t ∧ s.OnlyCounted t := by
  rw [exec_unclaimed hi, State.unrecognised_nop h]
  exact ⟨_, rfl, s.onlyCounted_count⟩

/-- Settles O24: a TRAP word whose vector no service has is decoded to that vector, which no instruction claims. -/
theorem unrecognisedVectorIsNop : Obligations.UnrecognisedVectorIsNop := by
  refine ⟨fun w hop hvect => ?_, fun vect8 s => exec_unclaimed_onlyCounted rfl⟩
  rw [← fieldVect8_eq]
  rw [← fieldVect8_toNat, ← wf_trapOther_iff] at hvect
  exact (decode_eq_iff_vector hop hvect rfl).2 (fieldVect8_toNat w).symm

/-! ### A pending attempt (R122, R124, R135) -/

@[simp] theorem State.bindPush_headC (s : State) :
    s.bindPush.q.headC = if s.consumer = some s.active then s.q.head else s.q.headC := by
  rw [State.bindPush_q]; split <;> rfl

@[simp] theorem State.bindPop_tailP (s : State) :
    s.bindPop.q.tailP = if s.producer = some s.active then s.q.tail else s.q.tailP := by
  rw [State.bindPop_q]; split <;> rfl

theorem State.attemptSend_sends {s : State} (hm : s.mayPush) (hroom : (s.q.head + 1) % s.cfg.capacity ≠ s.seenTail) :
    ∃ t, s.attemptSend = .next t ∧ s.Sends t ∧ s.cur.RegsKept t.cur [] := by
  have e := State.attemptSend_of_room hm hroom
  refine ⟨_, e, ?_, by rw [State.updCur_cur, State.setRing_cur, State.bindPush_cur]; exact fun _ _ => rfl⟩
  have hrest := State.attemptSend_rest e
  simpa [State.Sends, Ring.pushed, Vm.sendDone, Vm.MemKept] using hrest

theorem State.attemptSend_waits {s : State} (hp : s.cur.pend = .send) (hm : s.mayPush)
    (hfull : (s.q.head + 1) % s.cfg.capacity = s.seenTail) :
    ∃ t, s.attemptSend = .next t ∧ s.SendWaits t ∧ s.cur.RegsKept t.cur [] := by
  have e := State.attemptSend_of_full hm hfull
  refine ⟨_, e, ?_, by rw [State.bindPush_cur]; exact fun _ _ => rfl⟩
  have hrest := State.attemptSend_rest e
  simpa [State.SendWaits, Vm.MemKept, hp] using hrest

theorem State.attemptRecv_receives {s : State} {v : Word} (hm : s.mayPop) (hitem : s.seenHead ≠ s.q.tail)
    (hv : s.q.slot s.q.tail = some v) :
    ∃ t, s.attemptRecv = .next t ∧ s.Receives t v ∧ s.cur.RegsKept t.cur [0] := by
  have e := State.attemptRecv_of_item hm hitem hv
  refine ⟨_, e, ?_, by rw [State.updCur_cur, State.setRing_cur, State.bindPop_cur]; exact s.cur.recvDone_regsKept v⟩
  have hrest := State.attemptRecv_rest e
  simpa [State.Receives, Ring.popped, Vm.recvDone, Vm.MemKept, condReads_condOf] using hrest

theorem State.attemptRecv_waits {s : State} (hp : s.cur.pend = .recv) (hm : s.mayPop) (hempty : s.seenHead = s.q.tail) :
    ∃ t, s.attemptRecv = .next t ∧ s.RecvWaits t ∧ s.cur.RegsKept t.cur [] := by
  have e := State.attemptRecv_of_empty hm hempty
  refine ⟨_, e, ?_, by rw [State.updCur_cur, State.bindPop_cur]; exact fun _ _ => rfl⟩
  have hrest := State.attemptRecv_rest e
  simpa [State.RecvWaits, Vm.MemKept, hp] using hrest

/-! ### A fetched SEND or RECV -/

/-- The state in which a fetched SEND or RECV makes its first attempt: TRAP has left its link, and the spin phase `p`
has begun (R206, R207, log entry 11). -/
def State.entered (s : State) (p : Pend) : State := s.updCur fun x => (x.link s.cfg.trapSavesR7).setPend p

theorem exec_trapSend_entered (s : State) : exec .trapSend s = (s.entered .send).attemptSend := exec_trapSend s

theorem exec_trapRecv_entered (s : State) : exec .trapRecv s = (s.entered .recv).attemptRecv := exec_trapRecv s

section

variable (s t : State) (p : Pend)

theorem State.entered_cur : (s.entered p).cur = (s.cur.link s.cfg.trapSavesR7).setPend p := State.updCur_cur ..

@[simp] theorem State.entered_cfg : (s.entered p).cfg = s.cfg := State.updCur_cfg ..
@[simp] theorem State.entered_q : (s.entered p).q = s.q := State.updCur_q ..
@[simp] theorem State.entered_active : (s.entered p).active = s.active := State.updCur_active ..
@[simp] theorem State.entered_pend : (s.entered p).cur.pend = p := by rw [State.entered_cur, Vm.setPend_pend]
@[simp] theorem State.entered_mayPush : (s.entered p).mayPush ↔ s.mayPush := by simp [State.entered, State.mayPush]
@[simp] theorem State.entered_mayPop : (s.entered p).mayPop ↔ s.mayPop := by simp [State.entered, State.mayPop]
@[simp] theorem State.entered_seenTail : (s.entered p).seenTail = s.seenTail := by
  simp [State.entered, State.seenTail]
@[simp] theorem State.entered_seenHead : (s.entered p).seenHead = s.seenHead := by
  simp [State.entered, State.seenHead]

theorem State.entered_sends_iff : (s.entered p).Sends t ↔ s.Sends t := by
  simp [State.entered, State.Sends, State.RestKept, State.seenTail, Vm.MemKept, Vm.link_reg_zero]

theorem State.entered_sendWaits_iff : (s.entered p).SendWaits t ↔ s.SendWaits t := by
  simp [State.entered, State.SendWaits, State.RestKept, State.seenTail, Vm.MemKept]

theorem State.entered_receives_iff (v : Word) : (s.entered p).Receives t v ↔ s.Receives t v := by
  simp [State.entered, State.Receives, State.RestKept, State.seenHead, Vm.MemKept]

theorem State.entered_recvWaits_iff : (s.entered p).RecvWaits t ↔ s.RecvWaits t := by
  simp [State.entered, State.RecvWaits, State.RestKept, State.seenHead, Vm.MemKept]

end

theorem State.regsKept_trapLinks_of_entered {s t : State} {p : Pend} {written : List RegId} (h7 : 7 ∉ written)
    (h : (s.entered p).cur.RegsKept t.cur written) : s.cur.RegsKept t.cur (written ++ [7]) ∧ s.TrapLinks t :=
  State.regsKept_trapLinks_of_link h7 (by rw [State.entered_cur] at h; exact h)

/-- Settles O22: a pending SEND makes an attempt in its turn, and a fetched one makes the same attempt after TRAP's
entry. -/
theorem sendAttempts : Obligations.SendAttempts := by
  refine ⟨fun w hop => (decode_eq_iff_vector hop rfl rfl).2, fun s hm hroom => ?_, fun s hm hfull => ?_, fun s hm => ?_,
    fun s v hv hp => ⟨fun hm hroom => ?_, fun hm hfull => ?_, fun hm => ?_⟩⟩
  · rw [exec_trapSend_entered]
    obtain ⟨t, e, hsends, hregs⟩ := State.attemptSend_sends (s := s.entered .send) (by simpa using hm)
      (by simpa using hroom)
    exact ⟨t, e, (State.entered_sends_iff ..).1 hsends, State.regsKept_trapLinks_of_entered (by simp) hregs⟩
  · rw [exec_trapSend_entered]
    obtain ⟨t, e, hwaits, hregs⟩ := State.attemptSend_waits (s := s.entered .send) (by simp)
      (by simpa using hm) (by simpa using hfull)
    exact ⟨t, e, (State.entered_sendWaits_iff ..).1 hwaits, State.regsKept_trapLinks_of_entered (by simp) hregs⟩
  · rw [exec_trapSend_entered, State.attemptSend_of_not_mayPush (by simpa using hm), State.entered_active]
  · rw [step_send hv hp]
    exact State.attemptSend_sends hm hroom
  · rw [step_send hv hp]
    exact State.attemptSend_waits (by simpa using hp) hm hfull
  · rw [step_send hv hp]
    exact State.attemptSend_of_not_mayPush hm

/-- Settles O23: a pending RECV makes an attempt in its turn, and a fetched one makes the same attempt after TRAP's
entry. -/
theorem recvAttempts : Obligations.RecvAttempts := by
  refine ⟨fun w hop => (decode_eq_iff_vector hop rfl rfl).2, fun s x hm hitem hx => ?_, fun s hm hempty => ?_,
    fun s hm => ?_, fun s v hv hp => ⟨fun x hm hitem hx => ?_, fun hm hempty => ?_, fun hm => ?_⟩⟩
  · rw [exec_trapRecv_entered]
    obtain ⟨t, e, hreceives, hregs⟩ := State.attemptRecv_receives (s := s.entered .recv) (by simpa using hm)
      (by simpa using hitem) (by simpa using hx)
    exact ⟨t, e, (State.entered_receives_iff ..).1 hreceives, State.regsKept_trapLinks_of_entered (by simp) hregs⟩
  · rw [exec_trapRecv_entered]
    obtain ⟨t, e, hwaits, hregs⟩ := State.attemptRecv_waits (s := s.entered .recv) (by simp)
      (by simpa using hm) (by simpa using hempty)
    exact ⟨t, e, (State.entered_recvWaits_iff ..).1 hwaits, State.regsKept_trapLinks_of_entered (by simp) hregs⟩
  · rw [exec_trapRecv_entered, State.attemptRecv_of_not_mayPop (by simpa using hm), State.entered_active]
  · rw [step_recv hv hp]
    exact State.attemptRecv_receives hm hitem hx
  · rw [step_recv hv hp]
    exact State.attemptRecv_waits (by simpa using hp) hm hempty
  · rw [step_recv hv hp]
    exact State.attemptRecv_of_not_mayPop hm

/-! ### The consumer's lag (R208) -/

theorem State.Inv.messagesSent_eq_zero {s : State} {v : VmId} (h : s.Inv) (hv : s.producer ≠ some v) :
    (s.vm v).messagesSent = 0 :=
  Nat.eq_zero_of_not_pos fun hpos => hv (h.sender v (.inl hpos))

theorem State.Inv.messagesReceived_eq_zero {s : State} {v : VmId} (h : s.Inv) (hv : s.consumer ≠ some v) :
    (s.vm v).messagesReceived = 0 :=
  Nat.eq_zero_of_not_pos fun hpos => hv (h.receiver v (.inl hpos))

/-- Settles O52: where each instance keeps to its role, what the producer has sent and the consumer has not received is
outstanding, and the ring never holds `N` items. -/
theorem receiverLagsByUsableSlots : Obligations.ReceiverLagsByUsableSlots := by
  intro s hinv hproducer hconsumer
  have hsent : s.vmC.messagesSent = 0 := hinv.messagesSent_eq_zero hproducer
  have hreceived : s.vmP.messagesReceived = 0 := hinv.messagesReceived_eq_zero hconsumer
  have hbalance := hinv.balance
  have hcount := hinv.ring.count_lt
  omega

end Sys2Proof.Machine
end

section
/-! Proofs for 46_unrecognized.md: the format of an unrecognised opcode is the opcode alone, and its words have no effect
but to be counted (R220 to R227). -/

namespace Sys2Proof.Machine

theorem unclaimed_of_mem_unrecognisedOpcodes :
    ∀ i ∈ [Instr.unrec6, .unrec7, .unrec8, .unrecA, .unrecB, .unrecD, .unrecE], unclaimed i = true := by decide

/-- Settles O25: the decoder looks at the opcode only, and no instruction claims any of the seven. -/
theorem unrecognisedOpcodeIsNop : Obligations.UnrecognisedOpcodeIsNop := by
  refine ⟨fun w => ?_, fun i hi s => exec_unclaimed_onlyCounted (unclaimed_of_mem_unrecognisedOpcodes i hi)⟩
  have hdecode (i : Instr) (hi : operandBits i = []) : wordBits w 15 12 = Laws.OpcodeField.number i → decode w = i :=
    (decode_eq_iff_opcode hi).2
  exact ⟨hdecode .unrec6 rfl, hdecode .unrec7 rfl, hdecode .unrec8 rfl, hdecode .unrecA rfl, hdecode .unrecB rfl,
    hdecode .unrecD rfl, hdecode .unrecE rfl⟩

end Sys2Proof.Machine
end

section
/-! Proofs for 60_exceptions.md and 70_reset_and_hazards.md: what stops the machine (R230, R233, R42), which image files
load and what a failed load does (R238, R264, R265), and what is read when both instances have ended (R268 to R270). -/

namespace Sys2Proof.Machine

/-! ### What stops the machine (R42, R133, R230, R233) -/

/-- A role that instance `v` may not take is the other's. -/
theorem VmId.eq_some_other {v : VmId} {role : Option VmId} (h : ¬ (role = none ∨ role = some v)) :
    role = some v.other := by
  obtain ⟨hfree, hself⟩ := not_or.1 h
  obtain ⟨u, hu⟩ := Option.ne_none_iff_exists'.1 hfree
  rcases VmId.eq_or_eq_other u v with rfl | rfl
  · exact absurd hu hself
  · exact hu

/-- The fault `f` is a violation of the SPSC obligation by instance `v`, in the role that the other instance has. -/
def State.Violates (s : State) (v : VmId) (f : Fault) : Prop :=
  (s.producer = some v.other ∧ f = .spscViolation v .push) ∨ (s.consumer = some v.other ∧ f = .spscViolation v .pop)

theorem State.Violates.of_roles_eq {s t : State} {v : VmId} {f : Fault} (h : t.Violates v f)
    (hp : t.producer = s.producer) (hc : t.consumer = s.consumer) : s.Violates v f := by
  rwa [State.Violates, ← hp, ← hc]

theorem State.attemptSend_fault {s : State} {f : Fault} (h : s.attemptSend = .fault f) : s.Violates s.active f := by
  rcases s.attemptSend_cases with ⟨hm, e⟩ | ⟨_, _, e⟩ | ⟨_, _, e⟩ <;> rw [e] at h <;> cases h
  exact .inl ⟨VmId.eq_some_other hm, rfl⟩

theorem State.attemptSend_ne_refused (s : State) (r : Refusal) : s.attemptSend ≠ .refused r := by
  rcases s.attemptSend_cases with ⟨_, e⟩ | ⟨_, _, e⟩ | ⟨_, _, e⟩ <;> simp [e]

/-- The slot of an item that the popping instance sees has a value (R133). -/
theorem State.slot_tail_ne_none {s : State} {n : Nat} (hinv : s.q.Inv n) (hitem : s.seenHead ≠ s.q.tail) :
    s.q.slot s.q.tail ≠ none := by
  obtain ⟨v, hv⟩ := (State.bindPop_inv hinv).oldest_written (by simpa using hitem)
  rw [State.bindPop_tail, State.bindPop_slot] at hv
  simp [hv]

theorem State.attemptRecv_fault {s : State} {n : Nat} {f : Fault} (hinv : s.q.Inv n) (h : s.attemptRecv = .fault f) :
    s.Violates s.active f := by
  rcases s.attemptRecv_cases with ⟨hm, e⟩ | ⟨_, _, e⟩ | ⟨_, _, v, _, e⟩ | ⟨_, hitem, hslot, _⟩
  · rw [e] at h
    cases h
    exact .inr ⟨VmId.eq_some_other hm, rfl⟩
  · rw [e] at h
    cases h
  · rw [e] at h
    cases h
  · exact absurd hslot (State.slot_tail_ne_none hinv hitem)

theorem State.attemptRecv_ne_refused (s : State) (r : Refusal) : s.attemptRecv ≠ .refused r := by
  rcases s.attemptRecv_cases with ⟨_, e⟩ | ⟨_, _, e⟩ | ⟨_, _, v, _, e⟩ | ⟨_, _, _, e⟩ <;> simp [e]

/-- Of the instructions only SEND and RECV fault, by their first attempt. -/
theorem exec_fault {i : Instr} {s : State} {n : Nat} {f : Fault} (hinv : s.q.Inv n) (h : exec i s = .fault f) :
    s.Violates s.active f := by
  by_cases hs : i = .trapSend
  · rw [hs, exec_trapSend] at h
    simpa [State.Violates] using State.attemptSend_fault h
  by_cases hr : i = .trapRecv
  · rw [hr, exec_trapRecv] at h
    simpa [State.Violates] using State.attemptRecv_fault (n := n) (by simpa using hinv) h
  rcases exec_local i s hs hr with ⟨t, e, _⟩ | ⟨_, _, e⟩ <;> rw [e] at h <;> cases h

theorem exec_refused {i : Instr} {s : State} {r : Refusal} (h : exec i s = .refused r) :
    r = .unrecognisedWord ∧ s.cfg.unrecognized = .refuse ∧ unclaimed i = true := by
  by_cases hs : i = .trapSend
  · rw [hs, exec_trapSend] at h
    exact absurd h (State.attemptSend_ne_refused _ r)
  by_cases hr : i = .trapRecv
  · rw [hr, exec_trapRecv] at h
    exact absurd h (State.attemptRecv_ne_refused _ r)
  rcases exec_local i s hs hr with ⟨t, e, _⟩ | ⟨hu, hc, e⟩ <;> rw [e] at h <;> cases h
  exact ⟨rfl, hc, hu⟩

/-- Everything the turn of an instance can be, whatever its outcome (R150, R156). -/
theorem step_of_vm_turn {s : State} {v : VmId} (hv : s.turn = .vm v) :
    step s = .next s.takeTurn ∨
    ((s.vm v).pend = .none ∧ step s = exec (decode (s.wordAtPc v)) (s.fetched v)) ∨
    step s = (s.turnOf v).attemptSend ∨ step s = (s.turnOf v).attemptRecv := by
  cases hp : (s.vm v).pend with
  | send => exact .inr (.inr (.inl (step_send hv hp)))
  | recv => exact .inr (.inr (.inr (step_recv hv hp)))
  | none =>
    cases hm : (s.vm v).mayIterate (s.cfg.budget v) with
    | true => exact .inr (.inl ⟨rfl, step_iterate hv hp hm⟩)
    | false => exact .inl (step_terminated hv hp hm)

theorem step_refused {s : State} {r : Refusal} (h : step s = .refused r) :
    r = .unrecognisedWord ∧ s.cfg.unrecognized = .refuse ∧
      ∃ v, s.turn = .vm v ∧ (s.vm v).pend = .none ∧ unclaimed (decode (s.wordAtPc v)) = true := by
  cases ht : s.turn with
  | syncHead => rw [step_syncHead ht] at h; cases h
  | syncTail => rw [step_syncTail ht] at h; cases h
  | abort => rw [step_abort ht] at h; cases h
  | vm v =>
    rcases step_of_vm_turn ht with e | ⟨hp, e⟩ | e | e <;> rw [e] at h
    · cases h
    · obtain ⟨hr, hc, hu⟩ := exec_refused h
      exact ⟨hr, s.fetched_cfg v ▸ hc, v, rfl, hp, hu⟩
    · exact absurd h (State.attemptSend_ne_refused _ r)
    · exact absurd h (State.attemptRecv_ne_refused _ r)

theorem step_fault {s : State} {n : Nat} {f : Fault} (hinv : s.q.Inv n) (h : step s = .fault f) :
    (f = .abort ∧ s.turn = .abort) ∨ ∃ v, s.turn = .vm v ∧ s.Violates v f := by
  cases ht : s.turn with
  | syncHead => rw [step_syncHead ht] at h; cases h
  | syncTail => rw [step_syncTail ht] at h; cases h
  | abort =>
    rw [step_abort ht] at h
    cases h
    exact .inl ⟨rfl, rfl⟩
  | vm v =>
    refine .inr ⟨v, rfl, ?_⟩
    rcases step_of_vm_turn ht with e | ⟨_, e⟩ | e | e <;> rw [e] at h
    · cases h
    · obtain ⟨_, hproducer, hconsumer⟩ := s.fetched_ringKept v
      have hviolates := exec_fault (n := n) (by rwa [s.fetched_q]) h
      rw [s.fetched_active] at hviolates
      exact hviolates.of_roles_eq hproducer hconsumer
    · exact State.attemptSend_fault h
    · exact State.attemptRecv_fault (s := s.turnOf v) hinv h

/-- Settles O50: the ring's invariant rules out the unwritten slot, the one stop that is neither. -/
theorem onlyAbortAndViolationStop : Obligations.OnlyAbortAndViolationStop := by
  refine fun s hinv => ⟨fun r h => step_refused h, fun f h => ?_⟩
  rcases step_fault hinv.ring h with habort | ⟨v, hv, ⟨hrole, hf⟩ | ⟨hrole, hf⟩⟩
  · exact .inl habort
  · exact .inr (.inl ⟨v, hv, hrole, hf⟩)
  · exact .inr (.inr ⟨v, hv, hrole, hf⟩)

/-! ### Image files (R238, R264, R265) -/

/-- Settles O57, by the outcomes of the two loads. -/
theorem imageFailureStopsBoth : Obligations.ImageFailureStopsBoth := by
  intro l hwf
  rw [State.boot, if_pos hwf]
  cases hp : l.p.load with
  | none => exact ⟨by simp, fun _ => ⟨.P, rfl, hp⟩⟩
  | some p =>
    cases hc : l.c.load with
    | none => exact ⟨by simp, fun _ => ⟨.C, rfl, hc⟩⟩
    | some c => simp

/-- The two bytes of a word in an image file, the high byte first (R63, R265). -/
def wordBytes (w : Word) : List Byte := [BitVec.ofNat 8 (w.toNat / 256), BitVec.ofNat 8 (w.toNat % 256)]

theorem append_wordBytes (w : Word) : BitVec.ofNat 8 (w.toNat / 256) ++ BitVec.ofNat 8 (w.toNat % 256) = w := by
  apply BitVec.eq_of_toNat_eq
  have hw := w.isLt
  rw [toNat_append, BitVec.toNat_ofNat, BitVec.toNat_ofNat]
  omega

/-- The words of a file are read back from their bytes. -/
theorem parseWords_flatMap_wordBytes (ws : List Word) : parseWords (ws.flatMap wordBytes) = some ws := by
  induction ws with
  | nil => rfl
  | cons w ws ih =>
    rw [List.flatMap_cons, wordBytes, List.cons_append, List.cons_append, List.nil_append, parseWords, ih,
      Option.map_some, append_wordBytes]

theorem parseWords_of_odd {file : List Byte} (h : file.length % 2 = 1) : parseWords file = none := by
  fun_induction parseWords file with
  | case1 => cases h
  | case2 => rfl
  | case3 hi lo rest ih =>
    have hrest : rest.length % 2 = 1 := by simp only [List.length_cons] at h; omega
    rw [ih hrest, Option.map_none]

/-- Settles O58: the words are read back from their bytes, an odd byte is never part of one. -/
theorem imageFormat : Obligations.ImageFormat := by
  refine ⟨fun origin words => ?_, fun file hodd => ?_, rfl⟩
  · have hwords := parseWords_flatMap_wordBytes (origin :: words)
    unfold wordBytes at hwords
    simp only [parseImage, hwords]
  · simp only [parseImage, parseWords_of_odd hodd]

/-! ### The end of a run (R156, R268 to R270) -/

theorem State.final_iff {s : State} : s.final = true ↔ ∀ v, (s.vm v).terminated (s.cfg.budget v) = true := by
  rw [State.final, Bool.and_eq_true]
  exact ⟨fun ⟨hP, hC⟩ v => by cases v; exacts [hP, hC], fun h => ⟨h .P, h .C⟩⟩

/-- In a final state the turns of the instances do nothing, and those of the Sync agents move a view at most. -/
theorem step_out_of_final {s t : State} (hfinal : s.final = true) (h : step s = .next t) : t.out = s.out := by
  rcases step_cases h with ⟨_, rfl⟩ | ⟨_, rfl⟩ | ⟨v, hv, _⟩
  · rfl
  · rfl
  · obtain ⟨hp, hstop⟩ := Vm.terminated_iff.1 (State.final_iff.1 hfinal v)
    rw [step_terminated hv hp (Vm.mayIterate_eq_false_iff.2 hstop)] at h
    cases h
    rfl

/-- The host's report is read from the instances and their budgets alone. -/
theorem State.report_congr {s t : State} (hcfg : t.cfg = s.cfg) (hvm : ∀ v, t.vm v = s.vm v) : t.report = s.report := by
  have hP : t.vmP = s.vmP := hvm .P
  have hC : t.vmC = s.vmC := hvm .C
  rw [State.report, State.report, hcfg, hP, hC]

/-- What is read of a terminated instance: its four counters, and the kind of its stop by `running`. -/
theorem Vm.report_of_terminated {x : Vm} {budget : Nat} (h : x.terminated budget = true) :
    ∃ p, x.report budget = some p ∧
      (p.icount, p.messagesSent, p.messagesReceived, p.receiveSpinIterations)
        = (x.icount, x.messagesSent, x.messagesReceived, x.receiveSpinIterations) ∧
      (p.stop = .halt ↔ x.running = false) := by
  refine ⟨_, by rw [Vm.report, Vm.stopKind_of_terminated h, Option.map_some], rfl, ?_⟩
  cases x.running <;> simp

/-- Settles O59: no step changes a terminated instance, and the report is that of the two instances. -/
theorem finalStateStays : Obligations.FinalStateStays := by
  intro s hfinal
  have hterm := State.final_iff.1 hfinal
  refine ⟨fun t h => ?_, ?_⟩
  · have hcfg : t.cfg = s.cfg := stepKeepsConfig s t h
    have hvm (v : VmId) : t.vm v = s.vm v := step_vm_of_terminated h (hterm v)
    refine ⟨State.final_iff.2 fun v => ?_, hvm, step_out_of_final hfinal h, State.report_congr hcfg hvm⟩
    rw [hcfg, hvm, hterm]
  · obtain ⟨p, hp, hpcounters, hpstop⟩ := Vm.report_of_terminated (hterm .P)
    obtain ⟨c, hc, hccounters, hcstop⟩ := Vm.report_of_terminated (hterm .C)
    simp only [State.vm] at hp hc
    exact ⟨p, c, by rw [State.report, hp, hc], hpcounters, hccounters, hpstop, hcstop⟩

end Sys2Proof.Machine
end
